-- ==== Sys2Proof/Word.lean ====
section
/-! DEFINITION. The value types of the core: bytes, words, nibbles, addresses, register indices
(00_scope.md R8, R11; 10_state.md R30). Every value is unsigned (R12). -/

namespace Sys2Proof

/-- An 8-bit value: a general register, a timer, a memory cell, the immediate `NN`. -/
abbrev Byte := BitVec 8

/-- A 16-bit value: `pc`, `I`, a return address, an instruction word. -/
abbrev Word := BitVec 16

/-- The 12-bit address immediate `NNN` (30_encoding.md R102). -/
abbrev Addr12 := BitVec 12

/-- One of the four nibbles of an instruction word (30_encoding.md R101). -/
abbrev Nibble := BitVec 4

/-- The index of a general register, V0 to VF (10_state.md R31). -/
abbrev Reg := Fin 16

/-- The 16-key vector, bit k = key k pressed (10_state.md R50; 60_exceptions.md R294). -/
abbrev KeyState := BitVec 16

end Sys2Proof
end

