-- ==== Sys2Proof/Decode.lean ====
section
/-! DEFINITION. Decoder and encoder (30_encoding.md R100 to R107, R115; byte order 20_memory.md R74). -/

namespace Sys2Proof

/-! ## Fields of a word (R101, R102) -/

/-- The first nibble, the operation category `C` = w[15:12]. -/
def Word.cat (w : Word) : Nibble := w.extractLsb' 12 4

/-- The second nibble, `X` = w[11:8]. -/
def Word.nibX (w : Word) : Nibble := w.extractLsb' 8 4

/-- The third nibble, `Y` = w[7:4]. -/
def Word.nibY (w : Word) : Nibble := w.extractLsb' 4 4

/-- The fourth nibble, `N` = w[3:0]. -/
def Word.nibN (w : Word) : Nibble := w.extractLsb' 0 4

/-- The word of four nibbles, first nibble highest. -/
def wordOf (c x y n : Nibble) : Word := c ++ x ++ y ++ n

/-- `NN`, the low byte, from its two nibbles. -/
def byteOf (y n : Nibble) : Byte := y ++ n

/-- `NNN`, the low 12 bits, from its three nibbles. -/
def addrOf (x y n : Nibble) : Addr12 := x ++ y ++ n

/-- A nibble as a register index (R105) or as a count (R104). -/
def Nibble.idx (n : Nibble) : Fin 16 := ⟨n.toNat, n.isLt⟩

/-- A register index or a count as a nibble. -/
def nibOf (k : Fin 16) : Nibble := BitVec.ofNat 4 k.val

/-! ## Decoding -/

/-- The two-level dispatch of R106: first on the category, then on the sub-operation nibbles. -/
def decodeNibbles (c x y n : Nibble) : Instr :=
  match c with
  | 0x0#4 =>
    match x, y, n with
    | 0x0#4, 0xE#4, 0x0#4 => .cls
    | 0x0#4, 0xE#4, 0xE#4 => .ret
    | _, _, _ => .unknown (wordOf c x y n)
  | 0x1#4 => .jp (addrOf x y n)
  | 0x2#4 => .call (addrOf x y n)
  | 0x3#4 => .seImm x.idx (byteOf y n)
  | 0x4#4 => .sneImm x.idx (byteOf y n)
  | 0x5#4 =>
    match n with
    | 0x0#4 => .seReg x.idx y.idx
    | _ => .unknown (wordOf c x y n)
  | 0x6#4 => .ldImm x.idx (byteOf y n)
  | 0x7#4 => .addImm x.idx (byteOf y n)
  | 0x8#4 =>
    match n with
    | 0x0#4 => .ldReg x.idx y.idx
    | 0x1#4 => .orReg x.idx y.idx
    | 0x2#4 => .andReg x.idx y.idx
    | 0x3#4 => .xorReg x.idx y.idx
    | 0x4#4 => .addReg x.idx y.idx
    | 0x5#4 => .sub x.idx y.idx
    | 0x6#4 => .shr x.idx y.idx
    | 0x7#4 => .subn x.idx y.idx
    | 0xE#4 => .shl x.idx y.idx
    | _ => .unknown (wordOf c x y n)
  | 0x9#4 =>
    match n with
    | 0x0#4 => .sneReg x.idx y.idx
    | _ => .unknown (wordOf c x y n)
  | 0xA#4 => .ldI (addrOf x y n)
  | 0xB#4 => .jpV0 (addrOf x y n)
  | 0xC#4 => .rnd x.idx (byteOf y n)
  | 0xD#4 => .drw x.idx y.idx n.idx
  | 0xE#4 =>
    match y, n with
    | 0x9#4, 0xE#4 => .skp x.idx
    | 0xA#4, 0x1#4 => .sknp x.idx
    | _, _ => .unknown (wordOf c x y n)
  | _ => -- 0xF, the one category left
    match y, n with
    | 0x0#4, 0x7#4 => .ldVxDt x.idx
    | 0x0#4, 0xA#4 => .ldVxK x.idx
    | 0x1#4, 0x5#4 => .ldDtVx x.idx
    | 0x1#4, 0x8#4 => .ldStVx x.idx
    | 0x1#4, 0xE#4 => .addIVx x.idx
    | 0x2#4, 0x9#4 => .ldFVx x.idx
    | 0x3#4, 0x3#4 => .ldBVx x.idx
    | 0x5#4, 0x5#4 => .storeRegs x.idx
    | 0x6#4, 0x5#4 => .loadRegs x.idx
    | _, _ => .unknown (wordOf c x y n)

/-- The decoder, "a pure function mapping a 16-bit instruction word to a tagged operation", total (R106). -/
def decodeWord (w : Word) : Instr := decodeNibbles w.cat w.nibX w.nibY w.nibN

/-- The word of two bytes in memory order, "big-endian: high byte first" (20_memory.md R74). -/
def wordOfBytes (hi lo : Byte) : Word := hi ++ lo

/-- The first byte of a word in memory order. -/
def Word.hi (w : Word) : Byte := w.extractLsb' 8 8

/-- The second byte of a word in memory order. -/
def Word.lo (w : Word) : Byte := w.extractLsb' 0 8

/-- Why bytes are no instruction. Every word decodes (R116), so only want of bytes is a reason. -/
inductive DecodeError where
  /-- fewer than the two bytes of an instruction (R100) -/
  | truncated
  deriving DecidableEq, Repr

/-- The decoder on bytes: the instruction at the front and the bytes after it. -/
def decode : List Byte → Except DecodeError (Instr × List Byte)
  | hi :: lo :: rest => .ok (decodeWord (wordOfBytes hi lo), rest)
  | _ => .error .truncated

/-! ## Encoding (R103, R107) -/

/-- Format `XNN`. -/
def wordXNN (c : Nibble) (x : Reg) (nn : Byte) : Word :=
  wordOf c (nibOf x) (nn.extractLsb' 4 4) (nn.extractLsb' 0 4)

/-- Format `A`. -/
def wordA (c : Nibble) (nnn : Addr12) : Word :=
  wordOf c (nnn.extractLsb' 8 4) (nnn.extractLsb' 4 4) (nnn.extractLsb' 0 4)

/-- Formats `XY` and `XYN`. -/
def wordXY (c : Nibble) (x y : Reg) (n : Nibble) : Word := wordOf c (nibOf x) (nibOf y) n

/-- Format `X`. -/
def wordX (c : Nibble) (x : Reg) (y n : Nibble) : Word := wordOf c (nibOf x) y n

/-- The word of an instruction, by the opcode map (R107). -/
def encodeWord : Instr → Word
  | .cls => 0x00E0#16
  | .ret => 0x00EE#16
  | .jp nnn => wordA 0x1#4 nnn
  | .call nnn => wordA 0x2#4 nnn
  | .seImm x nn => wordXNN 0x3#4 x nn
  | .sneImm x nn => wordXNN 0x4#4 x nn
  | .seReg x y => wordXY 0x5#4 x y 0x0#4
  | .ldImm x nn => wordXNN 0x6#4 x nn
  | .addImm x nn => wordXNN 0x7#4 x nn
  | .ldReg x y => wordXY 0x8#4 x y 0x0#4
  | .orReg x y => wordXY 0x8#4 x y 0x1#4
  | .andReg x y => wordXY 0x8#4 x y 0x2#4
  | .xorReg x y => wordXY 0x8#4 x y 0x3#4
  | .addReg x y => wordXY 0x8#4 x y 0x4#4
  | .sub x y => wordXY 0x8#4 x y 0x5#4
  | .shr x y => wordXY 0x8#4 x y 0x6#4
  | .subn x y => wordXY 0x8#4 x y 0x7#4
  | .shl x y => wordXY 0x8#4 x y 0xE#4
  | .sneReg x y => wordXY 0x9#4 x y 0x0#4
  | .ldI nnn => wordA 0xA#4 nnn
  | .jpV0 nnn => wordA 0xB#4 nnn
  | .rnd x nn => wordXNN 0xC#4 x nn
  | .drw x y n => wordXY 0xD#4 x y (nibOf n)
  | .skp x => wordX 0xE#4 x 0x9#4 0xE#4
  | .sknp x => wordX 0xE#4 x 0xA#4 0x1#4
  | .ldVxDt x => wordX 0xF#4 x 0x0#4 0x7#4
  | .ldVxK x => wordX 0xF#4 x 0x0#4 0xA#4
  | .ldDtVx x => wordX 0xF#4 x 0x1#4 0x5#4
  | .ldStVx x => wordX 0xF#4 x 0x1#4 0x8#4
  | .addIVx x => wordX 0xF#4 x 0x1#4 0xE#4
  | .ldFVx x => wordX 0xF#4 x 0x2#4 0x9#4
  | .ldBVx x => wordX 0xF#4 x 0x3#4 0x3#4
  | .storeRegs x => wordX 0xF#4 x 0x5#4 0x5#4
  | .loadRegs x => wordX 0xF#4 x 0x6#4 0x5#4
  | .unknown w => w

/-- The bytes of an instruction in memory order. -/
def encode (i : Instr) : List Byte := [(encodeWord i).hi, (encodeWord i).lo]

/-! ## Unassigned words (R115) and the opcode map as a table (R107) -/

/-- The table of R115: the words of each category that no instruction has. -/
def unassigned (w : Word) : Bool :=
  match w.cat.toNat with
  | 0x0 => w != 0x00E0#16 && w != 0x00EE#16
  | 0x5 => w.nibN != 0#4
  | 0x8 => [0x8#4, 0x9#4, 0xA#4, 0xB#4, 0xC#4, 0xD#4, 0xF#4].contains w.nibN
  | 0x9 => w.nibN != 0#4
  | 0xE => !List.contains [0x9E#8, 0xA1#8] w.lo
  | 0xF => !List.contains [0x07#8, 0x0A#8, 0x15#8, 0x18#8, 0x1E#8, 0x29#8, 0x33#8, 0x55#8, 0x65#8] w.lo
  | _ => false

/-- One row of the opcode map: a word selects it iff `w AND mask = match` (R107). -/
structure OpRow where
  mnemonic : String
  pattern : Word
  mask : Word
  deriving DecidableEq, Repr

/-- `w AND mask = match`. -/
def OpRow.selects (r : OpRow) (w : Word) : Prop := w &&& r.mask = r.pattern

/-- Rows 1 to 19 of R107, mnemonics as the opcode table spells them. -/
def opcodeMapLow : List OpRow :=
  [⟨"CLS", 0x00E0, 0xFFFF⟩, ⟨"RET", 0x00EE, 0xFFFF⟩, ⟨"JP_NNN", 0x1000, 0xF000⟩,
   ⟨"CALL_NNN", 0x2000, 0xF000⟩, ⟨"SE_VX__NN", 0x3000, 0xF000⟩, ⟨"SNE_VX__NN", 0x4000, 0xF000⟩,
   ⟨"SE_VX__VY", 0x5000, 0xF00F⟩, ⟨"LD_VX__NN", 0x6000, 0xF000⟩, ⟨"ADD_VX__NN", 0x7000, 0xF000⟩,
   ⟨"LD_VX__VY", 0x8000, 0xF00F⟩, ⟨"OR_VX__VY", 0x8001, 0xF00F⟩, ⟨"AND_VX__VY", 0x8002, 0xF00F⟩,
   ⟨"XOR_VX__VY", 0x8003, 0xF00F⟩, ⟨"ADD_VX__VY", 0x8004, 0xF00F⟩, ⟨"SUB_VX__VY", 0x8005, 0xF00F⟩,
   ⟨"SHR_VX__VY", 0x8006, 0xF00F⟩, ⟨"SUBN_VX__VY", 0x8007, 0xF00F⟩, ⟨"SHL_VX__VY", 0x800E, 0xF00F⟩,
   ⟨"SNE_VX__VY", 0x9000, 0xF00F⟩]

/-- Rows 20 to 34 of R107. -/
def opcodeMapHigh : List OpRow :=
  [⟨"LD_I__NNN", 0xA000, 0xF000⟩, ⟨"JP_V0__NNN", 0xB000, 0xF000⟩, ⟨"RND_VX__NN", 0xC000, 0xF000⟩,
   ⟨"DRW_VX__VY__N", 0xD000, 0xF000⟩, ⟨"SKP_VX", 0xE09E, 0xF0FF⟩, ⟨"SKNP_VX", 0xE0A1, 0xF0FF⟩,
   ⟨"LD_VX__DT", 0xF007, 0xF0FF⟩, ⟨"LD_VX__K", 0xF00A, 0xF0FF⟩, ⟨"LD_DT__VX", 0xF015, 0xF0FF⟩,
   ⟨"LD_ST__VX", 0xF018, 0xF0FF⟩, ⟨"ADD_I__VX", 0xF01E, 0xF0FF⟩, ⟨"LD_F__VX", 0xF029, 0xF0FF⟩,
   ⟨"LD_B__VX", 0xF033, 0xF0FF⟩, ⟨"LD__I___VX", 0xF055, 0xF0FF⟩, ⟨"LD_VX___I", 0xF065, 0xF0FF⟩]

/-- The 34 rows of the opcode map (R107). -/
def opcodeMap : List OpRow := opcodeMapLow ++ opcodeMapHigh

/-- The mnemonic of an instruction, as the opcode table spells it. -/
def Instr.mnemonic : Instr → String
  | .cls => "CLS"
  | .ret => "RET"
  | .jp _ => "JP_NNN"
  | .call _ => "CALL_NNN"
  | .seImm _ _ => "SE_VX__NN"
  | .sneImm _ _ => "SNE_VX__NN"
  | .seReg _ _ => "SE_VX__VY"
  | .ldImm _ _ => "LD_VX__NN"
  | .addImm _ _ => "ADD_VX__NN"
  | .ldReg _ _ => "LD_VX__VY"
  | .orReg _ _ => "OR_VX__VY"
  | .andReg _ _ => "AND_VX__VY"
  | .xorReg _ _ => "XOR_VX__VY"
  | .addReg _ _ => "ADD_VX__VY"
  | .sub _ _ => "SUB_VX__VY"
  | .shr _ _ => "SHR_VX__VY"
  | .subn _ _ => "SUBN_VX__VY"
  | .shl _ _ => "SHL_VX__VY"
  | .sneReg _ _ => "SNE_VX__VY"
  | .ldI _ => "LD_I__NNN"
  | .jpV0 _ => "JP_V0__NNN"
  | .rnd _ _ => "RND_VX__NN"
  | .drw _ _ _ => "DRW_VX__VY__N"
  | .skp _ => "SKP_VX"
  | .sknp _ => "SKNP_VX"
  | .ldVxDt _ => "LD_VX__DT"
  | .ldVxK _ => "LD_VX__K"
  | .ldDtVx _ => "LD_DT__VX"
  | .ldStVx _ => "LD_ST__VX"
  | .addIVx _ => "ADD_I__VX"
  | .ldFVx _ => "LD_F__VX"
  | .ldBVx _ => "LD_B__VX"
  | .storeRegs _ => "LD__I___VX"
  | .loadRegs _ => "LD_VX___I"
  | .unknown _ => "(UNKNOWN)"

/-! ## The word numbered as the opcode table numbers it -/

/-- The two bytes, in memory order, of the instruction whose bits are `w`, the bits above `nbits` being 0. -/
def bytesOfTableWord (nbits w : Nat) : List Byte :=
  let word : Word := BitVec.ofNat 16 (w % 2 ^ nbits)
  [word.hi, word.lo]

/-- What the decoder reads from the instruction whose bits are `w`. -/
def decodeTableWord (nbits w : Nat) : Option Instr :=
  match decode (bytesOfTableWord nbits w) with
  | .ok (i, _) => some i
  | .error _ => none

end Sys2Proof
end

