-- ==== Sys2Proof/Config.lean ====
section
/-! DEFINITION. The fixed sizes of the core, its parameters (00_scope.md R8, 10_state.md R62), and the
free values: what the spec leaves open, as constants with no body, so that nothing can be proved of them. -/

namespace Sys2Proof

/-- `MEM_SIZE`: addresses 0x000 to 0xFFF (00_scope.md R8). -/
abbrev memSize : Nat := 4096

/-- `LOAD_ADDR`: where a program image starts and where `pc` starts (00_scope.md R8). -/
abbrev loadAddr : Nat := 0x200

/-- `MAX_IMAGE`: the longest program image (00_scope.md R8, 70_reset_and_hazards.md R312). -/
abbrev maxImage : Nat := memSize - loadAddr

/-- `STACK_DEPTH`: the entries of the call stack (00_scope.md R8, decision D5). -/
abbrev stackDepth : Nat := 24

/-- Which of result and flag is left in VF when both go there (42_alu.md R171). -/
inductive FlagOrder where
  | flagLast
  | resultLast
  deriving DecidableEq, Repr, Inhabited

/-- `FONT_ROM`: the 80 bytes installed at 0x000 (10_state.md R58). -/
abbrev FontRom := Vector Byte 80

/-- The parameters a machine is configured with, fixed for its life (10_state.md R62).
DESIGN CHOICE (log 1): they are held in the model's State, as the argument every claim quantifies over. -/
structure Params where
  /-- `IPT`, the instruction steps of one tick, 0 allowed (60_exceptions.md R290). -/
  ipt : Nat
  /-- `FLAG_ORDER` (42_alu.md R171). -/
  flagOrder : FlagOrder
  /-- `FONT_ROM` (10_state.md R58). -/
  fontRom : FontRom
  deriving DecidableEq, Repr

/-- What the environment supplies at one tick start: the state of the keys, and whether a stop was
asserted since the tick before (60_exceptions.md R290, R294, R296). -/
structure TickInput where
  keys : KeyState
  stop : Bool
  deriving DecidableEq, Repr, Inhabited

/-- Free value (log 1): the `IPT` of the machine after reset. -/
opaque Config.ipt : Nat

/-- Free value (log 1): the `FLAG_ORDER` of the machine after reset. -/
opaque Config.flagOrder : FlagOrder

/-- Free value (log 6): what the environment supplies at tick number n, beyond the scripted inputs. -/
opaque Config.tickInput : Nat → TickInput

/-- Free value (log 7): the random draw number n, beyond the scripted draws (42_alu.md R183). -/
opaque Config.randomByte : Nat → Byte

end Sys2Proof
end

