-- ==== Sys2Proof/Machine/Font.lean ====
section
/-! DEFINITION. The default `FONT_ROM`, the table of 10_state.md R58 (general knowledge in the spec's own
words, decision D29; log 2). -/

namespace Sys2Proof.Machine

/-- Glyphs 0 to 7, five rows each. -/
def defaultGlyphsLow : List Byte :=
  [0xF0, 0x90, 0x90, 0x90, 0xF0, 0x20, 0x60, 0x20, 0x20, 0x70,
   0xF0, 0x10, 0xF0, 0x80, 0xF0, 0xF0, 0x10, 0xF0, 0x10, 0xF0,
   0x90, 0x90, 0xF0, 0x10, 0x10, 0xF0, 0x80, 0xF0, 0x10, 0xF0,
   0xF0, 0x80, 0xF0, 0x90, 0xF0, 0xF0, 0x10, 0x20, 0x40, 0x40]

/-- Glyphs 8 to F, five rows each. -/
def defaultGlyphsHigh : List Byte :=
  [0xF0, 0x90, 0xF0, 0x90, 0xF0, 0xF0, 0x90, 0xF0, 0x10, 0xF0,
   0xF0, 0x90, 0xF0, 0x90, 0x90, 0xE0, 0x90, 0xE0, 0x90, 0xE0,
   0xF0, 0x80, 0x80, 0x80, 0xF0, 0xE0, 0x90, 0x90, 0x90, 0xE0,
   0xF0, 0x80, 0xF0, 0x80, 0xF0, 0xF0, 0x80, 0xF0, 0x80, 0x80]

/-- The default `FONT_ROM`: glyph d at 5d to 5d + 4, top row first (R58). -/
def defaultFont : FontRom :=
  Vector.ofFn fun k => (defaultGlyphsLow ++ defaultGlyphsHigh).getD k.val 0

end Sys2Proof.Machine
end

