-- ==== Sys2Proof/Machine/State.lean ====
section
/-! DEFINITION. The state of the core (10_state.md R30), its ports (60_exceptions.md R294), its place in
the tick (R290), the environment's inputs still to come, and the state after reset (R60). -/

namespace Sys2Proof.Machine

/-- The memory image, as the listed cells over what an unlisted address reads as (Memory.wf is its
canonical form; 20_memory.md R70). -/
abbrev Memory := List Host.Cell

/-- The 64 × 32 bitmap as 32 rows of 64 pixels, top row and left column first (10_state.md R54). -/
abbrev FrameBuffer := Vector (Vector Bool 64) 32

/-- The run state (10_state.md R56). -/
inductive RunState where
  | running
  | halted
  deriving DecidableEq, Repr

/-- The fault codes (60_exceptions.md R270). -/
inductive FaultCode where
  /-- fetch with pc > 0xFFE -/
  | fetchRange
  /-- a data access above 0xFFF -/
  | memRange
  /-- call with SP = STACK_DEPTH -/
  | stackOverflow
  /-- return with SP = 0 -/
  | stackUnderflow
  /-- key index above 15 -/
  | keyRange
  deriving DecidableEq, Repr

/-- The fault record `{code, pc, word, addr}` (10_state.md R57). -/
structure FaultRecord where
  code : FaultCode
  pc : Word
  word : Option Word
  addr : Option Nat
  deriving DecidableEq, Repr

/-- The kinds of diagnostic event: there is one (60_exceptions.md R280). -/
inductive DiagKind where
  | unknownOpcode
  deriving DecidableEq, Repr

/-- One event of the diagnostic port, `{kind, pc, word}` (60_exceptions.md R280, R294). -/
structure DiagEvent where
  kind : DiagKind
  pc : Word
  word : Word
  deriving DecidableEq, Repr

/-- The output ports that keep a value (60_exceptions.md R294); `fault_out` is the field `fault`. -/
structure Ports where
  /-- `fb_out`: the frame buffer as exposed at the end of the last tick. -/
  fbOut : FrameBuffer
  /-- `sound_gate`: `ST ≠ 0` as exposed at the end of the last tick (R293). -/
  soundGate : Bool
  /-- `diag`: the events emitted so far, newest first (log 9). -/
  diag : List DiagEvent
  deriving DecidableEq, Repr

/-- Where the core stands in the tick (60_exceptions.md R290; log 4). -/
inductive Sched where
  /-- between two ticks -/
  | idle
  /-- in a tick, with this many of its `IPT` steps still to run -/
  | batch (left : Nat)
  deriving DecidableEq, Repr

/-- The MODEL's own fields: what the environment has still to supply (60_exceptions.md R297). An input is
the head of its list or, the list being empty, a free value of Config applied to the counter (log 6, log 7). -/
structure Env where
  /-- one entry for each tick to come: `key_in` and `stop` -/
  inputs : List TickInput
  /-- how many ticks have taken their input -/
  tick : Nat
  /-- one byte for each `CXNN` to come: `rand` -/
  randIn : List Byte
  /-- how many draws have been taken -/
  draws : Nat
  deriving DecidableEq, Repr

/-- The machine. -/
structure State where
  /-- `MEM` -/
  mem : Memory
  /-- `V[0..15]` -/
  v : Vector Byte 16
  /-- `I` -/
  index : Word
  /-- `pc`: between steps the next instruction's address, in an instruction its own (R34) -/
  pc : Word
  /-- `stack[0..23]` -/
  stack : Vector Word stackDepth
  /-- `SP`, the number of entries in use, 0 to 24 (R40) -/
  sp : Fin (stackDepth + 1)
  /-- `DT` -/
  dt : Byte
  /-- `ST` -/
  st : Byte
  /-- `KEY`, the key snapshot (R50) -/
  key : KeyState
  /-- `kw_pressed` (R52) -/
  kwPressed : Bool
  /-- `kw_key` (R52) -/
  kwKey : Reg
  /-- `FB` -/
  fb : FrameBuffer
  /-- `run` -/
  run : RunState
  /-- `fault`, which is also the port `fault_out` -/
  fault : Option FaultRecord
  /-- the output ports -/
  ports : Ports
  /-- the place in the tick -/
  sched : Sched
  /-- the inputs to come -/
  env : Env
  /-- the parameters, fixed (10_state.md R62; log 1) -/
  params : Params
  deriving DecidableEq, Repr

/-- Why a step answers a fault. -/
inductive Fault where
  /-- Raised by `step`, and by nothing else, in a state whose fault record is set: "a model treats it as an
  error outcome, never as a normal end" (60_exceptions.md R271). The record is the one the faulting
  instruction left in the state. Safe: the spec says that no step runs (log 3). -/
  | stopped (record : FaultRecord)
  deriving DecidableEq, Repr

/-- Why a step answers a refusal. -/
inductive Refusal where
  /-- Raised by an arm of `exec` whose instruction has no meaning yet; no arm is left. Safe. -/
  | notModelled (mnemonic : String)
  deriving DecidableEq, Repr

/-- A bitmap with no pixel set. -/
def FrameBuffer.clear : FrameBuffer := Vector.replicate 32 (Vector.replicate 64 false)

/-- The state of Reset(P) with the empty image P (10_state.md R60; 70_reset_and_hazards.md R310, R311):
every listed component at its reset value. The ports (log 8), the tick position and the environment (log 5)
are the model's choice; `IPT` and `FLAG_ORDER` are free (log 1), `FONT_ROM` is the default (log 2). -/
def State.reset : State where
  mem := []
  v := Vector.replicate 16 0
  index := 0
  pc := 0x200
  stack := Vector.replicate stackDepth 0
  sp := 0
  dt := 0
  st := 0
  key := 0
  kwPressed := false
  kwKey := 0
  fb := FrameBuffer.clear
  run := .running
  fault := none
  ports := { fbOut := FrameBuffer.clear, soundGate := false, diag := [] }
  sched := .idle
  env := { inputs := [], tick := 0, randIn := [], draws := 0 }
  params := { ipt := Config.ipt, flagOrder := Config.flagOrder, fontRom := defaultFont }

end Sys2Proof.Machine
end

