-- ==== Sys2Proof/Machine/Memory.lean ====
section
/-! DEFINITION. The memory image `MEM` and its primitives (20_memory.md R70, R72, R79). -/

namespace Sys2Proof.Machine

/-- What an address that is not listed reads as: the contents after Reset with an empty image,
`FONT_ROM` at 0x000 to 0x04F and 0 elsewhere (10_state.md R60). -/
def Memory.unlisted (font : FontRom) (a : Nat) : Byte := font.toList.getD a 0

/-- The canonical form: addresses strictly rising and inside the space, no cell equal to what its
address would read as unlisted. -/
abbrev Memory.wf (font : FontRom) (m : Memory) : Prop :=
  m.Pairwise (fun c d => c.1 < d.1) ∧ ∀ c ∈ m, c.1 < memSize ∧ c.2 ≠ Memory.unlisted font c.1

/-- `MemRead(a, 1)` (R72). Its callers check the range first (R73); above 0xFFF it reads 0 (log 13). -/
def Memory.read (font : FontRom) : Memory → Nat → Byte
  | [], a => Memory.unlisted font a
  | (b, x) :: rest, a => if a = b then x else Memory.read font rest a

/-- The cell of address `a` set to `v` in a sorted list; a cell that would say what an unlisted address
reads as is left out. -/
def Memory.put (font : FontRom) (a : Nat) (v : Byte) : Memory → Memory
  | [] => if v = Memory.unlisted font a then [] else [(a, v)]
  | (b, x) :: rest =>
    if b < a then (b, x) :: Memory.put font a v rest
    else
      let tail := if a = b then rest else (b, x) :: rest
      if v = Memory.unlisted font a then tail else (a, v) :: tail

/-- `MemWrite(a, 1, v)` (R72). Its callers check the range first (R73); above 0xFFF there is no cell and
nothing is written (log 13). -/
def Memory.write (font : FontRom) (m : Memory) (a : Nat) (v : Byte) : Memory :=
  if a < memSize then Memory.put font a v m else m

/-- Bytes written one after another from `a` upward. -/
def Memory.writeBytes (font : FontRom) : Memory → Nat → List Byte → Memory
  | m, _, [] => m
  | m, a, v :: rest => Memory.writeBytes font (Memory.write font m a v) (a + 1) rest

end Sys2Proof.Machine
end

