-- ==== Sys2Proof/Machine/Ops.lean ====
section
/-! DEFINITION. The named operations over the state, the only ways a meaning reads or writes it, and
taking a fault as one of them (00_scope.md R13; 10_state.md R41; 20_memory.md R73; 60_exceptions.md R271). -/

namespace Sys2Proof.Machine

/-- What a meaning answers. -/
abbrev Result := Host.Outcome State Fault Refusal

/-! ## Registers, timers, keys -/

/-- `V[x]`. -/
def State.reg (s : State) (x : Reg) : Byte := s.v[x]

/-- `V[x] <- b`. -/
def State.setReg (s : State) (x : Reg) (b : Byte) : State := { s with v := s.v.set x.val b x.isLt }

/-- All sixteen registers at once. -/
def State.setRegs (s : State) (v : Vector Byte 16) : State := { s with v := v }

/-- `I <- w`. -/
def State.setIndex (s : State) (w : Word) : State := { s with index := w }

/-- `pc <- w`. -/
def State.setPc (s : State) (w : Word) : State := { s with pc := w }

/-- `DT <- b`. -/
def State.setDt (s : State) (b : Byte) : State := { s with dt := b }

/-- `ST <- b`. -/
def State.setSt (s : State) (b : Byte) : State := { s with st := b }

/-- `KEY[k]`; no key is pressed above 15. -/
def State.keyDown (s : State) (k : Nat) : Bool := s.key.getLsbD k

/-- The key-wait latch (10_state.md R52). -/
def State.setLatch (s : State) (pressed : Bool) (k : Reg) : State :=
  { s with kwPressed := pressed, kwKey := k }

/-- The frame buffer replaced. -/
def State.setFb (s : State) (fb : FrameBuffer) : State := { s with fb := fb }

/-! ## The program counter (40_step.md R133, R134) -/

/-- `pc <- a + 2`, the epilogue of every instruction that does not say otherwise. -/
def State.advance (s : State) : State := s.setPc (s.pc + 2#16)

/-- A skip: `pc <- a + 4` when the condition holds, else `pc <- a + 2`. -/
def State.skipIf (s : State) (cond : Bool) : State :=
  if cond then s.setPc (s.pc + 4#16) else s.advance

/-! ## Memory -/

/-- `MemRead(a, 1)`. -/
def State.readByte (s : State) (a : Nat) : Byte := Memory.read s.params.fontRom s.mem a

/-- Bytes stored from `a` upward. -/
def State.storeBytes (s : State) (a : Nat) (bytes : List Byte) : State :=
  { s with mem := Memory.writeBytes s.params.fontRom s.mem a bytes }

/-! ## Faults and diagnostics -/

/-- `raise Fault(code, info)`: the record is set, with `pc` the address of the instruction that raises it,
and nothing else changes (60_exceptions.md R270, R271; log 3). There is no return from it (R274). -/
def State.raise (s : State) (code : FaultCode) (word : Option Word) (addr : Option Nat) : State :=
  { s with fault := some { code := code, pc := s.pc, word := word, addr := addr } }

/-- The lowest address above 0xFFF among `count` bytes from `lo`, if there is one (20_memory.md R73). -/
def firstBadAddr (lo count : Nat) : Option Nat :=
  if 0 < count ∧ lo + count - 1 > 0xFFF then some (max lo 0x1000) else none

/-- `RangeCheck(lo, count)` before the effect `ok` of the instruction `i` (20_memory.md R73). The word
recorded is the instruction's own (log 11). -/
def State.rangeCheck (s : State) (i : Instr) (lo count : Nat) (ok : State) : Result :=
  match firstBadAddr lo count with
  | some a => .next (s.raise .memRange (some (encodeWord i)) (some a))
  | none => .next ok

/-- `emit Diag(info)`: one more event on the diagnostic port (60_exceptions.md R280). -/
def State.emitDiag (s : State) (word : Word) : State :=
  { s with ports :=
      { s.ports with diag := { kind := .unknownOpcode, pc := s.pc, word := word } :: s.ports.diag } }

/-! ## The call stack (10_state.md R41) -/

/-- `stack[SP] <- w; SP <- SP + 1`, where there is room. -/
def State.push? (s : State) (w : Word) : Option State :=
  if h : s.sp.val < stackDepth then
    some { s with stack := s.stack.set s.sp.val w h, sp := ⟨s.sp.val + 1, by omega⟩ }
  else none

/-- `SP <- SP - 1`, with the entry it uncovers, where there is one; the entry keeps its value. -/
def State.pop? (s : State) : Option (Word × State) :=
  if h : 0 < s.sp.val then
    some (s.stack[s.sp.val - 1]'(by omega), { s with sp := ⟨s.sp.val - 1, by omega⟩ })
  else none

/-! ## Inputs -/

/-- `RandomByte()`: the next scripted draw or, none being left, a free value (42_alu.md R183; log 7). -/
def State.nextDraw (s : State) : Byte :=
  match s.env.randIn with
  | r :: _ => r
  | [] => Config.randomByte s.env.draws

/-- The draw is taken: the next one is another. -/
def State.tookDraw (s : State) : State :=
  { s with env := { s.env with randIn := s.env.randIn.tail, draws := s.env.draws + 1 } }

/-- What the environment supplies at the next tick start: scripted or free (60_exceptions.md R294; log 6). -/
def State.nextInput (s : State) : TickInput :=
  match s.env.inputs with
  | i :: _ => i
  | [] => Config.tickInput s.env.tick

/-- The input is taken. -/
def State.tookInput (s : State) : State :=
  { s with env := { s.env with inputs := s.env.inputs.tail, tick := s.env.tick + 1 } }

/-! ## Fetch (40_step.md R130, R131) -/

/-- The word at `pc`, high byte first, where the fetch is in range. -/
def State.fetch? (s : State) : Option Word :=
  if s.pc.toNat ≤ 0xFFE then
    some (wordOfBytes (s.readByte s.pc.toNat) (s.readByte (s.pc.toNat + 1)))
  else none

/-- The fetch fault: no word is known, `addr` is max(a, 0x1000). -/
def State.fetchFault (s : State) : State := s.raise .fetchRange none (some (max s.pc.toNat 0x1000))

end Sys2Proof.Machine
end

