-- ==== Sys2Proof/Machine/Flags.lean ====
section
/-! DEFINITION. VF, the only flag (10_state.md R61): its computations (42_alu.md R170) and how a result and
a flag are written together (R171). -/

namespace Sys2Proof.Machine

/-- The index of VF. -/
abbrev vf : Reg := 15

/-- A flag as the byte it is stored as: 0 or 1. -/
def flagByte (b : Bool) : Byte := if b then 1 else 0

/-- The carry of 8XY4: the sum exceeds 255. -/
def carry (p q : Byte) : Bool := decide (p.toNat + q.toNat > 255)

/-- The no-borrow flag of `p − q`, strictly greater (R179; 90_conflicts.md C1). -/
def noBorrow (p q : Byte) : Bool := decide (p.toNat > q.toNat)

/-- The bit a right shift drops. -/
def shrOut (q : Byte) : Bool := q.getLsbD 0

/-- The bit a left shift drops. -/
def shlOut (q : Byte) : Bool := q.getLsbD 7

/-- What VF is left with when both the flag and the result are written to it: the last write (R171). -/
def lastWrite (order : FlagOrder) (flag result : Byte) : Byte :=
  match order with
  | .flagLast => flag
  | .resultLast => result

/-- `WriteResultAndFlag(X, result, flag)` (R171). Only when X = F does the order of the two writes, which
`FLAG_ORDER` gives, leave a trace; for any other X both orders write the same state. -/
def State.writeResultAndFlag (s : State) (x : Reg) (result : Byte) (flag : Bool) : State :=
  if x = vf then s.setReg vf (lastWrite s.params.flagOrder (flagByte flag) result)
  else (s.setReg x result).setReg vf (flagByte flag)

end Sys2Proof.Machine
end

