-- ==== Sys2Proof/Machine/Operands.lean ====
section
/-! DEFINITION. The operand forms (30_encoding.md R104, R105; 43_index_memory.md R206). A register operand
is `State.reg`, an immediate `NN` is used as it stands. -/

namespace Sys2Proof.Machine

/-- `zext_16(NNN)` (R104). -/
def addrImm (nnn : Addr12) : Word := nnn.zeroExtend 16

/-- `zext_16(NNN) + V[0]`, the target of the jump with offset, not reduced to 12 bits (41_control_flow.md R157). -/
def State.offsetTarget (s : State) (nnn : Addr12) : Word := addrImm nnn + (s.reg 0).zeroExtend 16

/-- `I + k`, a natural number, "taken modulo nothing" (20_memory.md R73; R206). -/
def State.indexAddr (s : State) (k : Nat) : Nat := s.index.toNat + k

/-- The registers V0 to VX in order (43_index_memory.md R204). -/
def State.regsUpTo (s : State) (x : Reg) : List Byte := s.v.toList.take (x.val + 1)

/-- The bytes at I, I + 1, …: `count` of them. -/
def State.bytesAtIndex (s : State) (count : Nat) : List Byte :=
  (List.range count).map fun k => s.readByte (s.indexAddr k)

/-- The decimal digits of a byte: hundreds, tens, ones (43_index_memory.md R203). -/
def bcdDigits (b : Byte) : List Byte :=
  [BitVec.ofNat 8 (b.toNat / 100), BitVec.ofNat 8 (b.toNat / 10 % 10), BitVec.ofNat 8 (b.toNat % 10)]

/-- The key index a register holds, where it is one (45_keys_timers.md R250). -/
def keyIndex? (b : Byte) : Option Reg :=
  if h : b.toNat < 16 then some ⟨b.toNat, h⟩ else none

/-- `min { k | KEY[k] = 1 }`, where some key is pressed (45_keys_timers.md R255). -/
def lowestKey? (keys : KeyState) : Option Reg :=
  (List.finRange 16).find? fun k => keys.getLsbD k.val

end Sys2Proof.Machine
end

