-- ==== Sys2Proof/Machine/Alu.lean ====
section
/-! DEFINITION. Register file and ALU (42_alu.md). Every operand is read from the state before the
instruction (00_scope.md R13). -/

namespace Sys2Proof.Machine

/-- LD VX, NN (R172). -/
def execLdImm (x : Reg) (nn : Byte) (s : State) : Result := .next (s.setReg x nn).advance

/-- ADD VX, NN (R173): wrapping, no flag. -/
def execAddImm (x : Reg) (nn : Byte) (s : State) : Result := .next (s.setReg x (s.reg x + nn)).advance

/-- LD VX, VY (R174). -/
def execLdReg (x y : Reg) (s : State) : Result := .next (s.setReg x (s.reg y)).advance

/-- OR VX, VY (R175). -/
def execOrReg (x y : Reg) (s : State) : Result := .next (s.setReg x (s.reg x ||| s.reg y)).advance

/-- AND VX, VY (R176). -/
def execAndReg (x y : Reg) (s : State) : Result := .next (s.setReg x (s.reg x &&& s.reg y)).advance

/-- XOR VX, VY (R177). -/
def execXorReg (x y : Reg) (s : State) : Result := .next (s.setReg x (s.reg x ^^^ s.reg y)).advance

/-- ADD VX, VY (R178). -/
def execAddReg (x y : Reg) (s : State) : Result :=
  .next (s.writeResultAndFlag x (s.reg x + s.reg y) (carry (s.reg x) (s.reg y))).advance

/-- SUB VX, VY (R179). -/
def execSub (x y : Reg) (s : State) : Result :=
  .next (s.writeResultAndFlag x (s.reg x - s.reg y) (noBorrow (s.reg x) (s.reg y))).advance

/-- SHR VX, VY (R180): the source is VY. -/
def execShr (x y : Reg) (s : State) : Result :=
  .next (s.writeResultAndFlag x (s.reg y >>> 1) (shrOut (s.reg y))).advance

/-- SUBN VX, VY (R181). -/
def execSubn (x y : Reg) (s : State) : Result :=
  .next (s.writeResultAndFlag x (s.reg y - s.reg x) (noBorrow (s.reg y) (s.reg x))).advance

/-- SHL VX, VY (R182): the source is VY. -/
def execShl (x y : Reg) (s : State) : Result :=
  .next (s.writeResultAndFlag x (s.reg y <<< 1) (shlOut (s.reg y))).advance

/-- RND VX, NN (R183): a fresh draw, masked. -/
def execRnd (x : Reg) (nn : Byte) (s : State) : Result :=
  .next (s.tookDraw.setReg x (s.nextDraw &&& nn)).advance

end Sys2Proof.Machine
end

