-- ==== Sys2Proof/Machine/Control.lean ====
section
/-! DEFINITION. Control flow (41_control_flow.md) and the unassigned words (40_step.md R135). -/

namespace Sys2Proof.Machine

/-- RET (R150). -/
def execRet (s : State) : Result :=
  match s.pop? with
  | some (t, s') => .next (s'.setPc t)
  | none => .next (s.raise .stackUnderflow (some (encodeWord .ret)) none)

/-- JP NNN (R151). -/
def execJp (nnn : Addr12) (s : State) : Result := .next (s.setPc (addrImm nnn))

/-- CALL NNN (R152). -/
def execCall (nnn : Addr12) (s : State) : Result :=
  match s.push? (s.pc + 2#16) with
  | some s' => .next (s'.setPc (addrImm nnn))
  | none => .next (s.raise .stackOverflow (some (encodeWord (.call nnn))) none)

/-- SE VX, NN (R153). -/
def execSeImm (x : Reg) (nn : Byte) (s : State) : Result := .next (s.skipIf (s.reg x == nn))

/-- SNE VX, NN (R154). -/
def execSneImm (x : Reg) (nn : Byte) (s : State) : Result := .next (s.skipIf (s.reg x != nn))

/-- SE VX, VY (R155). -/
def execSeReg (x y : Reg) (s : State) : Result := .next (s.skipIf (s.reg x == s.reg y))

/-- SNE VX, VY (R156). -/
def execSneReg (x y : Reg) (s : State) : Result := .next (s.skipIf (s.reg x != s.reg y))

/-- JP V0, NNN (R157). -/
def execJpV0 (nnn : Addr12) (s : State) : Result := .next (s.setPc (s.offsetTarget nnn))

/-- UNKNOWN (40_step.md R135): reported, and no state change but the epilogue. -/
def execUnknown (w : Word) (s : State) : Result := .next (s.emitDiag w).advance

end Sys2Proof.Machine
end

