-- ==== Sys2Proof/Machine/Display.lean ====
section
/-! DEFINITION. The rasterizer: clear and draw (44_display.md). -/

namespace Sys2Proof.Machine

/-- `FB[x, y]`; false outside the bitmap. -/
def FrameBuffer.pixel (fb : FrameBuffer) (x y : Nat) : Bool :=
  if h : x < 64 ∧ y < 32 then fb[y][x] else false

/-- `FB[x, y] <- b`; nothing is written outside the bitmap. -/
def FrameBuffer.setPixel (fb : FrameBuffer) (x y : Nat) (b : Bool) : FrameBuffer :=
  if h : x < 64 ∧ y < 32 then fb.set y (fb[y].set x b) else fb

/-- The loop over the columns `c` of one sprite row `b` (R222): the rest of the row is clipped at column 63;
`hit` is the collision flag so far. -/
def drawColumns (ox y : Nat) (b : Byte) : List Nat → FrameBuffer × Bool → FrameBuffer × Bool
  | [], acc => acc
  | c :: cs, (fb, hit) =>
    if ox + c > 63 then (fb, hit)
    else
      let bit := b.getLsbD (7 - c)
      let old := fb.pixel (ox + c) y
      drawColumns ox y b cs (fb.setPixel (ox + c) y (old ^^ bit), hit || (bit && old))

/-- The loop over the sprite rows, the first on frame-buffer row `y` (R222). -/
def drawRows (ox : Nat) : Nat → List Byte → FrameBuffer × Bool → FrameBuffer × Bool
  | _, [], acc => acc
  | y, b :: bs, acc => drawRows ox (y + 1) bs (drawColumns ox y b (List.range 8) acc)

/-- `ox`, the column of the origin (R221). -/
def State.originX (s : State) (x : Reg) : Nat := (s.reg x).toNat % 64

/-- `oy`, the row of the origin (R221). -/
def State.originY (s : State) (y : Reg) : Nat := (s.reg y).toNat % 32

/-- `R`, the sprite rows that are drawn (R221). -/
def State.drawnRows (s : State) (y : Reg) (n : Fin 16) : Nat := min n.val (32 - s.originY y)

/-- CLS (R220). -/
def execCls (s : State) : Result := .next (s.setFb FrameBuffer.clear).advance

/-- DRW VX, VY, N (R222). -/
def execDrw (x y : Reg) (n : Fin 16) (s : State) : Result :=
  let rows := s.drawnRows y n
  let drawn := drawRows (s.originX x) (s.originY y) (s.bytesAtIndex rows) (s.fb, false)
  s.rangeCheck (.drw x y n) (s.indexAddr 0) rows
    ((s.setFb drawn.1).setReg vf (flagByte drawn.2)).advance

end Sys2Proof.Machine
end

