-- ==== Sys2Proof/Machine/Index.lean ====
section
/-! DEFINITION. Index register and memory transfers (43_index_memory.md). No access changes I (R206). -/

namespace Sys2Proof.Machine

/-- LD I, NNN (R200). -/
def execLdI (nnn : Addr12) (s : State) : Result := .next (s.setIndex (addrImm nnn)).advance

/-- ADD I, VX (R201): mod 2^16, no flag. -/
def execAddIVx (x : Reg) (s : State) : Result :=
  .next (s.setIndex (s.index + (s.reg x).zeroExtend 16)).advance

/-- LD F, VX (R202): not masked. -/
def execLdFVx (x : Reg) (s : State) : Result :=
  .next (s.setIndex (BitVec.ofNat 16 ((s.reg x).toNat * 5))).advance

/-- LD B, VX (R203). -/
def execLdBVx (x : Reg) (s : State) : Result :=
  s.rangeCheck (.ldBVx x) (s.indexAddr 0) 3 (s.storeBytes (s.indexAddr 0) (bcdDigits (s.reg x))).advance

/-- LD [I], VX (R204). -/
def execStoreRegs (x : Reg) (s : State) : Result :=
  s.rangeCheck (.storeRegs x) (s.indexAddr 0) (x.val + 1)
    (s.storeBytes (s.indexAddr 0) (s.regsUpTo x)).advance

/-- LD VX, [I] (R205): registers above X keep their values. -/
def execLoadRegs (x : Reg) (s : State) : Result :=
  s.rangeCheck (.loadRegs x) (s.indexAddr 0) (x.val + 1)
    (s.setRegs (Vector.ofFn fun k =>
      if k.val ≤ x.val then s.readByte (s.indexAddr k.val) else s.reg k)).advance

end Sys2Proof.Machine
end

