-- ==== Sys2Proof/Machine/Keys.lean ====
section
/-! DEFINITION. Keys and timers (45_keys_timers.md). -/

namespace Sys2Proof.Machine

/-- SKP VX (R250). -/
def execSkp (x : Reg) (s : State) : Result :=
  match keyIndex? (s.reg x) with
  | some k => .next (s.skipIf (s.keyDown k.val))
  | none => .next (s.raise .keyRange (some (encodeWord (.skp x))) (some (s.reg x).toNat))

/-- SKNP VX (R251). -/
def execSknp (x : Reg) (s : State) : Result :=
  match keyIndex? (s.reg x) with
  | some k => .next (s.skipIf (!s.keyDown k.val))
  | none => .next (s.raise .keyRange (some (encodeWord (.sknp x))) (some (s.reg x).toNat))

/-- LD VX, DT (R252). -/
def execLdVxDt (x : Reg) (s : State) : Result := .next (s.setReg x s.dt).advance

/-- LD DT, VX (R253). -/
def execLdDtVx (x : Reg) (s : State) : Result := .next (s.setDt (s.reg x)).advance

/-- LD ST, VX (R254). -/
def execLdStVx (x : Reg) (s : State) : Result := .next (s.setSt (s.reg x)).advance

/-- LD VX, K (R255): latch the lowest pressed key, wait for its release, then complete. While it waits, pc
stays on this instruction. -/
def execLdVxK (x : Reg) (s : State) : Result :=
  if s.kwPressed then
    if s.keyDown s.kwKey.val then .next s
    else .next ((s.setReg x (BitVec.ofNat 8 s.kwKey.val)).setLatch false s.kwKey).advance
  else
    match lowestKey? s.key with
    | none => .next s
    | some k => .next (s.setLatch true k)

end Sys2Proof.Machine
end

