-- ==== Sys2Proof/Machine/Run.lean ====
section
/-! DEFINITION. The instruction step (40_step.md R130 to R132). -/

namespace Sys2Proof.Machine

/-- `Step()` (R130): fetch, decode, execute one instruction. -/
def State.instrStep (s : State) : Host.Outcome State Fault Refusal :=
  match s.fetch? with
  | some w => exec (decodeWord w) s
  | none => .next s.fetchFault

end Sys2Proof.Machine
end

