-- ==== Sys2Proof/Machine/Tick.lean ====
section
/-! DEFINITION. The two ends of a tick (60_exceptions.md R290, R291, R293, R296). -/

namespace Sys2Proof.Machine

/-- The start of a tick. A halted core changes nothing. A stop asserted since the last tick halts the core
(R296: "a model may equivalently sample the stop at the start of each tick"). Otherwise the keys are polled
and the batch of `IPT` steps begins. -/
def State.beginTick (s : State) : State :=
  match s.run with
  | .halted => s
  | .running =>
    let inp := s.nextInput
    if inp.stop then { s.tookInput with run := .halted }
    else { s.tookInput with key := inp.keys, sched := .batch s.params.ipt }

/-- A counter down by one, "saturating at 0" (10_state.md R43). -/
def countDown (t : Byte) : Byte := if t.toNat > 0 then t - 1#8 else t

/-- `TimerCountdown()` (R291). -/
def State.timerCountdown (s : State) : State := { s with dt := countDown s.dt, st := countDown s.st }

/-- The frame buffer and the sound gate handed to the output ports (R290, R293). -/
def State.expose (s : State) : State :=
  { s with ports := { s.ports with fbOut := s.fb, soundGate := s.st != 0#8 } }

/-- The end of a tick: countdown, exposure, and the core is between ticks. -/
def State.endTick (s : State) : State := { s.timerCountdown.expose with sched := .idle }

/-- A place in the tick at which an instruction is the next thing to run: as it is if one is, else the last
step of a batch. -/
def Sched.forInstr : Sched → Sched
  | .batch (n + 1) => .batch (n + 1)
  | .batch 0 => .batch 1
  | .idle => .batch 1

end Sys2Proof.Machine
end

