-- ==== Sys2Proof/Machine/Step.lean ====
section
/-! DEFINITION. One step of the core (40_step.md R130; 60_exceptions.md R290): the start of a tick, one
instruction of its batch, or its end (log 4). -/

namespace Sys2Proof.Machine

/-- One step. In a core whose fault record is set no step runs, and the answer is the error outcome
(60_exceptions.md R271; log 3). -/
def step (s : State) : Host.Outcome State Fault Refusal :=
  match s.fault with
  | some r => .fault (.stopped r)
  | none =>
    match s.sched with
    | .idle => .next s.beginTick
    | .batch 0 => .next s.endTick
    | .batch (n + 1) => State.instrStep { s with sched := .batch n }

/-- The state with the instruction whose bits are `w` (numbered as the opcode table numbers them) stored at
pc, and the tick at a place where an instruction runs next, so that the very next step runs it (log 14). -/
def State.withFetchWord (s : State) (nbits w : Nat) : State :=
  { s.storeBytes s.pc.toNat (bytesOfTableWord nbits w) with sched := s.sched.forInstr }

end Sys2Proof.Machine
end

