-- ==== Sys2Proof/Machine/Boot.lean ====
section
/-! DEFINITION. Reset with a program image (70_reset_and_hazards.md R310, R312). -/

namespace Sys2Proof.Machine

/-- The port `load_error`: the image is too long and no state is created (R312). -/
inductive LoadError where
  | imageTooLong
  deriving DecidableEq, Repr

/-- `Reset(P)` of a machine with the given parameters, in an environment that has the given inputs still to
supply (R310): the state after reset, with the image from 0x200 upward. -/
def State.boot (params : Params) (env : Env) (image : List Byte) : Except LoadError State :=
  if image.length > maxImage then .error .imageTooLong
  else .ok ({ State.reset with params := params, env := env }.storeBytes loadAddr image)

end Sys2Proof.Machine
end

