-- ==== Sys2Proof/Safety.lean ====
section
/-! DEFINITION. The terms claims use: the components of the state and what it is to change only some of
them (00_scope.md R14), and what holds in every state a run reaches. -/

namespace Sys2Proof.Machine

/-- The components of the state (10_state.md R30) and the model's own. -/
inductive Component where
  | mem | regs | index | pc | stack | dt | st | key | latch | fb | run | fault | ports | sched | env | params
  deriving DecidableEq, Repr

/-- The component holds the same in both states; memory by the read of every single byte too. -/
def Component.same : Component → State → State → Prop
  | .mem, s, t => t.mem = s.mem ∧ ∀ a, t.readByte a = s.readByte a
  | .regs, s, t => ∀ r, t.reg r = s.reg r
  | .index, s, t => t.index = s.index
  | .pc, s, t => t.pc = s.pc
  | .stack, s, t => t.stack = s.stack ∧ t.sp = s.sp
  | .dt, s, t => t.dt = s.dt
  | .st, s, t => t.st = s.st
  | .key, s, t => t.key = s.key
  | .latch, s, t => t.kwPressed = s.kwPressed ∧ t.kwKey = s.kwKey
  | .fb, s, t => t.fb = s.fb
  | .run, s, t => t.run = s.run
  | .fault, s, t => t.fault = s.fault
  | .ports, s, t => t.ports = s.ports
  | .sched, s, t => t.sched = s.sched
  | .env, s, t => t.env = s.env
  | .params, s, t => t.params = s.params

/-- From `s` to `t` nothing changes but, at most, the components of the list. -/
def OnlyChanges (cs : List Component) (s t : State) : Prop := ∀ c, c ∉ cs → c.same s t

/-- Memory is in canonical form, pc is where some instruction can leave it (40_step.md R134), and every
return address in use was pushed by a call (10_state.md R41; R134). -/
def State.Inv (s : State) : Prop :=
  Memory.wf s.params.fontRom s.mem ∧ s.pc.toNat ≤ 0x10FE ∧
    ∀ k : Fin stackDepth, k.val < s.sp.val → (s.stack[k]).toNat ≤ 0x1000

/-- A set key-wait latch belongs to the FX0A at pc (45_keys_timers.md R255: "the latch can only be set while
pc stays on this instruction"). -/
def State.LatchInv (s : State) : Prop :=
  s.kwPressed = true → ∃ w x, s.fetch? = some w ∧ decodeWord w = .ldVxK x

/-- How many bytes from I upward the instruction accesses: the table of 20_memory.md R77. -/
def dataBytes : Instr → State → Nat
  | .drw _ y n, s => min n.val (32 - (s.reg y).toNat % 32)
  | .ldBVx _, _ => 3
  | .storeRegs x, _ => x.val + 1
  | .loadRegs x, _ => x.val + 1
  | _, _ => 0

/-- The record is the one the table of 60_exceptions.md R270 gives for the instruction at pc: its pc, its own
word (NONE where there is no fetch), the cause of its code, still to be seen in the state since a fault changes
nothing (R271), an instruction that the table names for the code, and the `addr` of that row (the lowest address
above 0xFFF being max(I, 0x1000), 20_memory.md R73). -/
def FaultRecord.truthful (r : FaultRecord) (s : State) : Prop :=
  r.pc = s.pc ∧ r.word = s.fetch? ∧
  match r.code with
  | .fetchRange => s.pc.toNat > 0xFFE ∧ r.addr = some (max s.pc.toNat 0x1000)
  | .memRange =>
    ∃ w, r.word = some w ∧ 0 < dataBytes (decodeWord w) s ∧
      s.index.toNat + dataBytes (decodeWord w) s - 1 > 0xFFF ∧ r.addr = some (max s.index.toNat 0x1000)
  | .stackOverflow =>
    ∃ w nnn, r.word = some w ∧ decodeWord w = .call nnn ∧ s.sp.val = stackDepth ∧ r.addr = none
  | .stackUnderflow => r.word = some 0x00EE#16 ∧ s.sp.val = 0 ∧ r.addr = none
  | .keyRange =>
    ∃ w x, r.word = some w ∧ (decodeWord w = .skp x ∨ decodeWord w = .sknp x) ∧ (s.reg x).toNat > 15 ∧
      r.addr = some (s.reg x).toNat

/-- Whatever fault is recorded is recorded truthfully. -/
def State.FaultInv (s : State) : Prop := ∀ r, s.fault = some r → r.truthful s

/-- A halted core is between ticks (60_exceptions.md R296: a stop acts at a tick start). -/
def State.RunInv (s : State) : Prop := s.run = .halted → s.sched = .idle

end Sys2Proof.Machine
end

