-- ==== Sys2Proof/Certificates/Slice0/Obligations.lean ====
section
/-! DEFINITION. The statements for the provers, each from rules of the spec, and the small vocabulary they
share. In all of them `I` stands for `s.index.toNat`. -/

namespace Sys2Proof.Claims

open Sys2Proof.Machine

/-! ## Patterns of 30_encoding.md R103, R107 as numbers -/

/-- The word of format `A`, e.g. `1NNN`: C·0x1000 + NNN. -/
def hexA (c : Nat) (nnn : Addr12) : Word := BitVec.ofNat 16 (c * 0x1000 + nnn.toNat)

/-- The word of format `XNN`, e.g. `6XNN`: C·0x1000 + X·0x100 + NN. -/
def hexXNN (c : Nat) (x : Reg) (nn : Byte) : Word := BitVec.ofNat 16 (c * 0x1000 + x.val * 0x100 + nn.toNat)

/-- The word of formats `XY` and `XYN`, e.g. `8XY4`: C·0x1000 + X·0x100 + Y·0x10 + N. -/
def hexXYN (c : Nat) (x y : Reg) (n : Nat) : Word :=
  BitVec.ofNat 16 (c * 0x1000 + x.val * 0x100 + y.val * 0x10 + n)

/-- The word of format `X`, e.g. `FX33`: C·0x1000 + X·0x100 + ss. -/
def hexX (c : Nat) (x : Reg) (ss : Nat) : Word := BitVec.ofNat 16 (c * 0x1000 + x.val * 0x100 + ss)

/-! ## Shapes of effect -/

/-- The instruction completes: register `x` holds `b`, every other register what it held, pc is the next
instruction's, and nothing else changes. -/
def WritesReg (i : Instr) (s : State) (x : Reg) (b : Byte) : Prop :=
  ∃ t, exec i s = .next t ∧ (∀ r, t.reg r = if r = x then b else s.reg r) ∧ t.pc = s.pc + 2#16 ∧
    OnlyChanges [.regs, .pc] s t

/-- The instruction completes: V[X] holds `result` and VF the flag, or, when X = F, VF holds the one of the
two that `FLAG_ORDER` writes last (42_alu.md R171); nothing else changes but pc. -/
def WritesResultAndFlag (i : Instr) (s : State) (x : Reg) (result : Nat) (flag : Bool) : Prop :=
  ∃ t, exec i s = .next t ∧
    (x ≠ 15 → (t.reg x).toNat = result ∧ (t.reg 15).toNat = if flag then 1 else 0) ∧
    (x = 15 → s.params.flagOrder = .flagLast → (t.reg 15).toNat = if flag then 1 else 0) ∧
    (x = 15 → s.params.flagOrder = .resultLast → (t.reg 15).toNat = result) ∧
    (∀ r, r ≠ x → r ≠ 15 → t.reg r = s.reg r) ∧ t.pc = s.pc + 2#16 ∧ OnlyChanges [.regs, .pc] s t

/-- The instruction completes with `target` in pc and nothing else changed. -/
def SetsPc (i : Instr) (s : State) (target : Word) : Prop :=
  ∃ t, exec i s = .next t ∧ t.pc = target ∧ OnlyChanges [.pc] s t

/-- The instruction completes as a skip: pc + 4 if the condition holds, else pc + 2, nothing else changed. -/
def SkipsIf (i : Instr) (s : State) (cond : Prop) : Prop :=
  ∃ t, exec i s = .next t ∧ (cond → t.pc = s.pc + 4#16) ∧ (¬cond → t.pc = s.pc + 2#16) ∧
    OnlyChanges [.pc] s t

/-- The instruction raises the fault and changes nothing else (60_exceptions.md R271). -/
def Raises (i : Instr) (s : State) (code : FaultCode) (word : Word) (addr : Option Nat) : Prop :=
  exec i s = .next { s with fault := some { code := code, pc := s.pc, word := some word, addr := addr } }

/-- The instruction completes with I changed to `index` and nothing else but pc. -/
def SetsIndex (i : Instr) (s : State) (index : Nat) : Prop :=
  ∃ t, exec i s = .next t ∧ t.index.toNat = index ∧ t.pc = s.pc + 2#16 ∧ OnlyChanges [.index, .pc] s t

/-- The instruction completes with the bytes stored from I upward, every byte outside them as before, and
nothing else changed but pc. -/
def StoresAtIndex (i : Instr) (s : State) (bytes : List Byte) : Prop :=
  ∃ t, exec i s = .next t ∧
    (∀ k, k < bytes.length → t.readByte (s.index.toNat + k) = bytes.getD k 0) ∧
    (∀ a, a < s.index.toNat ∨ s.index.toNat + bytes.length ≤ a → t.readByte a = s.readByte a) ∧
    t.pc = s.pc + 2#16 ∧ OnlyChanges [.mem, .pc] s t

/-! ## Drawing (44_display.md R221) -/

/-- A set bit of the sprite lands on pixel (px, py): some drawn row r and column c of it have that bit set,
neither clipped. -/
def SpriteLands (s : State) (x y : Reg) (n : Fin 16) (px py : Nat) : Prop :=
  ∃ r c, r < n.val ∧ c ≤ 7 ∧ px = (s.reg x).toNat % 64 + c ∧ py = (s.reg y).toNat % 32 + r ∧
    px ≤ 63 ∧ py ≤ 31 ∧ (s.readByte (s.index.toNat + r)).getLsbD (7 - c) = true

/-- R, the number of sprite rows that are drawn. -/
def drawnRowCount (s : State) (y : Reg) (n : Fin 16) : Nat := min n.val (32 - (s.reg y).toNat % 32)

/-! ## Tables over all instructions -/

/-- The fault an instruction raises, when it raises one: the table of 60_exceptions.md R270. -/
def faultOf (i : Instr) (s : State) : Option FaultRecord :=
  let range (count : Nat) (word : Word) : Option FaultRecord :=
    if 0 < count ∧ s.index.toNat + count - 1 > 0xFFF then
      some { code := .memRange, pc := s.pc, word := some word, addr := some (max s.index.toNat 0x1000) }
    else none
  let key (x : Reg) (word : Word) : Option FaultRecord :=
    if (s.reg x).toNat > 15 then
      some { code := .keyRange, pc := s.pc, word := some word, addr := some (s.reg x).toNat }
    else none
  match i with
  | .ret =>
    if s.sp.val = 0 then some { code := .stackUnderflow, pc := s.pc, word := some 0x00EE#16, addr := none }
    else none
  | .call nnn =>
    if s.sp.val = 24 then some { code := .stackOverflow, pc := s.pc, word := some (hexA 0x2 nnn), addr := none }
    else none
  | .drw x y n => range (drawnRowCount s y n) (hexXYN 0xD x y n.val)
  | .ldBVx x => range 3 (hexX 0xF x 0x33)
  | .storeRegs x => range (x.val + 1) (hexX 0xF x 0x55)
  | .loadRegs x => range (x.val + 1) (hexX 0xF x 0x65)
  | .skp x => key x (hexX 0xE x 0x9E)
  | .sknp x => key x (hexX 0xE x 0xA1)
  | _ => none

/-- FX0A completes: its latch is set and the latched key is up (45_keys_timers.md R255). -/
def waitCompletes (s : State) : Bool := s.kwPressed && !s.key.getLsbD s.kwKey.val

/-- The net pc of each instruction that raises no fault: the table of 40_step.md R134. -/
def netPc (i : Instr) (s : State) : Word :=
  let skip (cond : Bool) : Word := if cond then s.pc + 4#16 else s.pc + 2#16
  match i with
  | .jp nnn | .call nnn => BitVec.ofNat 16 nnn.toNat
  | .jpV0 nnn => BitVec.ofNat 16 (nnn.toNat + (s.reg 0).toNat)
  | .ret => s.stack.toList.getD (s.sp.val - 1) 0
  | .seImm x nn => skip (s.reg x == nn)
  | .sneImm x nn => skip (s.reg x != nn)
  | .seReg x y => skip (s.reg x == s.reg y)
  | .sneReg x y => skip (s.reg x != s.reg y)
  | .skp x => skip (s.key.getLsbD (s.reg x).toNat)
  | .sknp x => skip (!s.key.getLsbD (s.reg x).toNat)
  | .ldVxK _ => if waitCompletes s then s.pc + 2#16 else s.pc
  | _ => s.pc + 2#16

/-- What an instruction that raises no fault may change: 20_memory.md R77, 10_state.md R38, R41, R43, R44,
R50, R54, R56, R61. -/
def mayChange : Instr → List Component
  | .cls => [.fb, .pc]
  | .ret | .call _ => [.stack, .pc]
  | .jp _ | .jpV0 _ | .seImm _ _ | .sneImm _ _ | .seReg _ _ | .sneReg _ _ | .skp _ | .sknp _ => [.pc]
  | .ldImm _ _ | .addImm _ _ | .ldReg _ _ | .orReg _ _ | .andReg _ _ | .xorReg _ _ => [.regs, .pc]
  | .addReg _ _ | .sub _ _ | .shr _ _ | .subn _ _ | .shl _ _ | .ldVxDt _ | .loadRegs _ => [.regs, .pc]
  | .rnd _ _ => [.regs, .pc, .env]
  | .ldI _ | .addIVx _ | .ldFVx _ => [.index, .pc]
  | .ldBVx _ | .storeRegs _ => [.mem, .pc]
  | .drw _ _ _ => [.fb, .regs, .pc]
  | .ldVxK _ => [.regs, .latch, .pc]
  | .ldDtVx _ => [.dt, .pc]
  | .ldStVx _ => [.st, .pc]
  | .unknown _ => [.ports, .pc]

/-- Whether the instruction may write VF: as the flag (10_state.md R61) or as its named destination. -/
def mayWriteVf : Instr → Prop
  | .addReg _ _ | .sub _ _ | .subn _ _ | .shr _ _ | .shl _ _ | .drw _ _ _ => True
  | .ldImm x _ | .addImm x _ | .ldReg x _ | .orReg x _ | .andReg x _ | .xorReg x _ => x = 15
  | .rnd x _ | .ldVxDt x | .ldVxK x | .loadRegs x => x = 15
  | _ => False

/-! ## The tick as the spec writes it (60_exceptions.md R290) -/

/-- `Step()` as a function of the state. -/
def specStep (s : State) : State :=
  match s.instrStep with
  | .next t => t
  | _ => s

/-- `repeat n times: if fault = NONE: Step()`. -/
def specBatch : Nat → State → State
  | 0, s => s
  | n + 1, s => specBatch n (if s.fault = none then specStep s else s)

/-- `Tick(key_in)` in a core that is neither halted nor faulted. -/
def specTick (s : State) : State :=
  let polled := { s.tookInput with key := s.nextInput.keys }
  let ran := specBatch s.params.ipt polled
  if ran.fault = none then
    let st := BitVec.ofNat 8 (ran.st.toNat - 1)
    { ran with
      dt := BitVec.ofNat 8 (ran.dt.toNat - 1)
      st := st
      ports := { fbOut := ran.fb, soundGate := decide (st.toNat ≠ 0), diag := ran.ports.diag } }
  else ran

/-- The bytes an instruction stores from I upward. -/
def storedBytes : Instr → State → List Byte
  | .ldBVx x, s =>
    [BitVec.ofNat 8 ((s.reg x).toNat / 100), BitVec.ofNat 8 ((s.reg x).toNat / 10 % 10),
     BitVec.ofNat 8 ((s.reg x).toNat % 10)]
  | .storeRegs x, s => (List.finRange 16).filterMap fun k => if k ≤ x then some (s.reg k) else none
  | _, _ => []

end Sys2Proof.Claims

open Sys2Proof Sys2Proof.Machine Sys2Proof.Claims

/-! ## Encoding -/

/-- Decoding the bytes of any well-formed instruction gives it back, with the bytes after it left over. -/
def Obligations.EveryInstructionDecodesFromItsEncoding : Prop :=
  ∀ (i : Instr), i.wellFormed = true → ∀ rest, decode (encode i ++ rest) = .ok (i, rest)

/-- R106: every word decodes, to a well-formed instruction whose word it is. -/
def Obligations.EveryWordIsTheWordOfItsDecoding : Prop :=
  ∀ w : Word, (decodeWord w).wellFormed = true ∧ encodeWord (decodeWord w) = w

/-- R106, R107: the decoder yields the row that the word selects, and UNKNOWN iff it selects none. -/
def Obligations.DecoderYieldsTheSelectedRow : Prop :=
  ∀ w : Word, (∀ r ∈ opcodeMap, r.selects w ↔ (decodeWord w).mnemonic = r.mnemonic) ∧
    ((∀ r ∈ opcodeMap, ¬r.selects w) ↔ decodeWord w = .unknown w)

/-- R108: no word selects two of the 34 rows. -/
def Obligations.OpcodeRowsAreDisjoint : Prop :=
  opcodeMap.length = 34 ∧ opcodeMap.Pairwise fun r q => ∀ w : Word, ¬(r.selects w ∧ q.selects w)

/-- R115: the UNKNOWN words are those of the table, category by category. -/
def Obligations.UnknownWordsAreThoseOfTheTable : Prop :=
  ∀ w : Word,
    let c := w.toNat / 0x1000
    let n := w.toNat % 0x10
    let nn := w.toNat % 0x100
    decodeWord w = .unknown w ↔
      (c = 0x0 ∧ w.toNat ≠ 0x00E0 ∧ w.toNat ≠ 0x00EE) ∨ (c = 0x5 ∧ n ≠ 0) ∨
      (c = 0x8 ∧ n ∈ [0x8, 0x9, 0xA, 0xB, 0xC, 0xD, 0xF]) ∨ (c = 0x9 ∧ n ≠ 0) ∨
      (c = 0xE ∧ nn ∉ [0x9E, 0xA1]) ∨
      (c = 0xF ∧ nn ∉ [0x07, 0x0A, 0x15, 0x18, 0x1E, 0x29, 0x33, 0x55, 0x65])

/-- Words written out in the spec decode to what they stand for: 30_encoding.md R117 and 95_test_vectors.md D8, and
0x5121, which is unassigned (40_step.md R135, its example; 95_test_vectors.md D7). -/
def Obligations.SpecWordsDecode : Prop :=
  decodeWord 0x6005#16 = .ldImm 0 5 ∧ decodeWord 0x8014#16 = .addReg 0 1 ∧
  decodeWord 0xD010#16 = .drw 0 1 0 ∧ decodeWord 0x2206#16 = .call 0x206 ∧ decodeWord 0x00EE#16 = .ret ∧
  decodeWord 0x00E0#16 = .cls ∧ decodeWord 0x5120#16 = .seReg 1 2 ∧ decodeWord 0x800E#16 = .shl 0 0 ∧
  decodeWord 0x9120#16 = .sneReg 1 2 ∧ decodeWord 0xE19E#16 = .skp 1 ∧ decodeWord 0xE1A1#16 = .sknp 1 ∧
  decodeWord 0xF10A#16 = .ldVxK 1 ∧ decodeWord 0xFF65#16 = .loadRegs 15 ∧
  decodeWord 0x5121#16 = .unknown 0x5121

/-! ## Register file and ALU -/

/-- R172. -/
def Obligations.LoadImmediateSetsVx : Prop :=
  ∀ (x : Reg) (nn : Byte) (s : State),
    decodeWord (hexXNN 0x6 x nn) = .ldImm x nn ∧ WritesReg (.ldImm x nn) s x nn

/-- R173. -/
def Obligations.AddImmediateWrapsAndLeavesVf : Prop :=
  ∀ (x : Reg) (nn : Byte) (s : State),
    decodeWord (hexXNN 0x7 x nn) = .addImm x nn ∧
    WritesReg (.addImm x nn) s x (BitVec.ofNat 8 (((s.reg x).toNat + nn.toNat) % 256))

/-- R174 to R177. -/
def Obligations.AssignAndLogicOpsWriteVxOnly : Prop :=
  ∀ (x y : Reg) (s : State),
    (decodeWord (hexXYN 0x8 x y 0x0) = .ldReg x y ∧ WritesReg (.ldReg x y) s x (s.reg y)) ∧
    (decodeWord (hexXYN 0x8 x y 0x1) = .orReg x y ∧ WritesReg (.orReg x y) s x (s.reg x ||| s.reg y)) ∧
    (decodeWord (hexXYN 0x8 x y 0x2) = .andReg x y ∧ WritesReg (.andReg x y) s x (s.reg x &&& s.reg y)) ∧
    (decodeWord (hexXYN 0x8 x y 0x3) = .xorReg x y ∧ WritesReg (.xorReg x y) s x (s.reg x ^^^ s.reg y))

/-- R178, R171. -/
def Obligations.AddSetsCarry : Prop :=
  ∀ (x y : Reg) (s : State),
    decodeWord (hexXYN 0x8 x y 0x4) = .addReg x y ∧
    WritesResultAndFlag (.addReg x y) s x (((s.reg x).toNat + (s.reg y).toNat) % 256)
      (decide ((s.reg x).toNat + (s.reg y).toNat > 255))

/-- R179, R181, R171: the flag is strict, so equal operands give 0 (90_conflicts.md C1). -/
def Obligations.SubtractionsSetStrictNoBorrow : Prop :=
  ∀ (x y : Reg) (s : State),
    (decodeWord (hexXYN 0x8 x y 0x5) = .sub x y ∧
      WritesResultAndFlag (.sub x y) s x (((s.reg x).toNat + 256 - (s.reg y).toNat) % 256)
        (decide ((s.reg x).toNat > (s.reg y).toNat))) ∧
    (decodeWord (hexXYN 0x8 x y 0x7) = .subn x y ∧
      WritesResultAndFlag (.subn x y) s x (((s.reg y).toNat + 256 - (s.reg x).toNat) % 256)
        (decide ((s.reg y).toNat > (s.reg x).toNat)))

/-- R180, R182, R171: the source is V[Y] and the flag its bit shifted out. -/
def Obligations.ShiftsTakeVyAndSetTheBitShiftedOut : Prop :=
  ∀ (x y : Reg) (s : State),
    (decodeWord (hexXYN 0x8 x y 0x6) = .shr x y ∧
      WritesResultAndFlag (.shr x y) s x ((s.reg y).toNat / 2) (decide ((s.reg y).toNat % 2 = 1))) ∧
    (decodeWord (hexXYN 0x8 x y 0xE) = .shl x y ∧
      WritesResultAndFlag (.shl x y) s x ((s.reg y).toNat * 2 % 256) (decide ((s.reg y).toNat ≥ 128)))

/-- R183: any draw may come, each execution takes a fresh one, and V[X] is the draw masked. How draws are
supplied (a list, then a free value of a counter) is the model's choice, log 7. -/
def Obligations.RandomMasksAFreshDraw : Prop :=
  ∀ (x : Reg) (nn : Byte) (s : State),
    decodeWord (hexXNN 0xC x nn) = .rnd x nn ∧
    ∃ t, exec (.rnd x nn) s = .next t ∧ (∀ r, r ≠ x → t.reg r = s.reg r) ∧
      (∀ d rest, s.env.randIn = d :: rest → t.reg x = d &&& nn ∧ t.env.randIn = rest) ∧
      (s.env.randIn = [] → t.reg x = Config.randomByte s.env.draws &&& nn ∧ t.env.randIn = []) ∧
      t.env.draws = s.env.draws + 1 ∧ t.env.inputs = s.env.inputs ∧ t.env.tick = s.env.tick ∧
      t.pc = s.pc + 2#16 ∧ OnlyChanges [.regs, .pc, .env] s t

/-! ## Control flow -/

/-- R151, R157: the jumps, the second by V0 whatever bits 11:8 hold, its sum not reduced to 12 bits. -/
def Obligations.JumpsSetPc : Prop :=
  ∀ (nnn : Addr12) (s : State),
    (decodeWord (hexA 0x1 nnn) = .jp nnn ∧ SetsPc (.jp nnn) s (BitVec.ofNat 16 nnn.toNat)) ∧
    (decodeWord (hexA 0xB nnn) = .jpV0 nnn ∧
      ∃ t, exec (.jpV0 nnn) s = .next t ∧ t.pc.toNat = nnn.toNat + (s.reg 0).toNat ∧ OnlyChanges [.pc] s t)

/-- R152. -/
def Obligations.CallPushesTheNextAddressOrOverflows : Prop :=
  ∀ (nnn : Addr12) (s : State),
    decodeWord (hexA 0x2 nnn) = .call nnn ∧
    (s.sp.val < 24 →
      ∃ t, exec (.call nnn) s = .next t ∧ t.pc.toNat = nnn.toNat ∧ t.sp.val = s.sp.val + 1 ∧
        (∀ k : Fin 24, t.stack[k] = if k.val = s.sp.val then s.pc + 2#16 else s.stack[k]) ∧
        OnlyChanges [.stack, .pc] s t) ∧
    (s.sp.val = 24 → Raises (.call nnn) s .stackOverflow (hexA 0x2 nnn) none)

/-- R150: the entry popped keeps its value. -/
def Obligations.ReturnPopsOrUnderflows : Prop :=
  ∀ s : State,
    decodeWord 0x00EE#16 = .ret ∧
    (∀ k : Fin 24, s.sp.val = k.val + 1 →
      ∃ t, exec .ret s = .next t ∧ t.pc = s.stack[k] ∧ t.sp.val = k.val ∧ t.stack = s.stack ∧
        OnlyChanges [.stack, .pc] s t) ∧
    (s.sp.val = 0 → Raises .ret s .stackUnderflow 0x00EE#16 none)

/-- R150, R152: a return comes back to the instruction after the call, and the stack to its depth. -/
def Obligations.ReturnAfterCallComesBack : Prop :=
  ∀ (nnn : Addr12) (s t : State), s.sp.val < 24 → exec (.call nnn) s = .next t →
    ∃ u, exec .ret t = .next u ∧ u.pc = s.pc + 2#16 ∧ u.sp = s.sp ∧ OnlyChanges [.stack, .pc] s u ∧
      ∀ k : Fin 24, k.val < s.sp.val → u.stack[k] = s.stack[k]

/-- R153 to R156. -/
def Obligations.SkipsAdvanceByFourOrTwo : Prop :=
  ∀ (x y : Reg) (nn : Byte) (s : State),
    (decodeWord (hexXNN 0x3 x nn) = .seImm x nn ∧ SkipsIf (.seImm x nn) s (s.reg x = nn)) ∧
    (decodeWord (hexXNN 0x4 x nn) = .sneImm x nn ∧ SkipsIf (.sneImm x nn) s (s.reg x ≠ nn)) ∧
    (decodeWord (hexXYN 0x5 x y 0x0) = .seReg x y ∧ SkipsIf (.seReg x y) s (s.reg x = s.reg y)) ∧
    (decodeWord (hexXYN 0x9 x y 0x0) = .sneReg x y ∧ SkipsIf (.sneReg x y) s (s.reg x ≠ s.reg y))

/-- R135, R280: one diagnostic event, pc + 2, and nothing else. That the event is kept at the head of a list
in State is the model's choice, log 9. -/
def Obligations.UnknownWordIsReportedAndSkipped : Prop :=
  ∀ (w : Word) (s : State),
    ((∀ r ∈ opcodeMap, ¬r.selects w) → decodeWord w = .unknown w) ∧
    ∃ t, exec (.unknown w) s = .next t ∧ t.pc = s.pc + 2#16 ∧
      t.ports.diag = { kind := .unknownOpcode, pc := s.pc, word := w } :: s.ports.diag ∧
      t.ports.fbOut = s.ports.fbOut ∧ t.ports.soundGate = s.ports.soundGate ∧ OnlyChanges [.ports, .pc] s t

/-! ## Index register and memory -/

/-- R200, R201, R202. -/
def Obligations.IndexInstructionsSetI : Prop :=
  ∀ (nnn : Addr12) (x : Reg) (s : State),
    (decodeWord (hexA 0xA nnn) = .ldI nnn ∧ SetsIndex (.ldI nnn) s nnn.toNat) ∧
    (decodeWord (hexX 0xF x 0x1E) = .addIVx x ∧
      SetsIndex (.addIVx x) s ((s.index.toNat + (s.reg x).toNat) % 0x10000)) ∧
    (decodeWord (hexX 0xF x 0x29) = .ldFVx x ∧ SetsIndex (.ldFVx x) s ((s.reg x).toNat * 5))

/-- R203, R73, over memories in canonical form. -/
def Obligations.BcdStoresDigitsOrFaults : Prop :=
  ∀ (x : Reg) (s : State), Memory.wf s.params.fontRom s.mem →
    decodeWord (hexX 0xF x 0x33) = .ldBVx x ∧
    (s.index.toNat + 2 ≤ 0xFFF →
      StoresAtIndex (.ldBVx x) s
        [BitVec.ofNat 8 ((s.reg x).toNat / 100), BitVec.ofNat 8 ((s.reg x).toNat / 10 % 10),
         BitVec.ofNat 8 ((s.reg x).toNat % 10)]) ∧
    (s.index.toNat + 2 > 0xFFF →
      Raises (.ldBVx x) s .memRange (hexX 0xF x 0x33) (some (max s.index.toNat 0x1000)))

/-- R204, R73, over memories in canonical form. -/
def Obligations.BlockStoreStoresV0ToVxOrFaults : Prop :=
  ∀ (x : Reg) (s : State), Memory.wf s.params.fontRom s.mem →
    decodeWord (hexX 0xF x 0x55) = .storeRegs x ∧
    (s.index.toNat + x.val ≤ 0xFFF →
      ∃ t, exec (.storeRegs x) s = .next t ∧
        (∀ k : Reg, k ≤ x → t.readByte (s.index.toNat + k.val) = s.reg k) ∧
        (∀ a, a < s.index.toNat ∨ s.index.toNat + x.val < a → t.readByte a = s.readByte a) ∧
        t.pc = s.pc + 2#16 ∧ OnlyChanges [.mem, .pc] s t) ∧
    (s.index.toNat + x.val > 0xFFF →
      Raises (.storeRegs x) s .memRange (hexX 0xF x 0x55) (some (max s.index.toNat 0x1000)))

/-- R205, R73. -/
def Obligations.BlockLoadLoadsV0ToVxOrFaults : Prop :=
  ∀ (x : Reg) (s : State),
    decodeWord (hexX 0xF x 0x65) = .loadRegs x ∧
    (s.index.toNat + x.val ≤ 0xFFF →
      ∃ t, exec (.loadRegs x) s = .next t ∧
        (∀ k : Reg, t.reg k = if k ≤ x then s.readByte (s.index.toNat + k.val) else s.reg k) ∧
        t.pc = s.pc + 2#16 ∧ OnlyChanges [.regs, .pc] s t) ∧
    (s.index.toNat + x.val > 0xFFF →
      Raises (.loadRegs x) s .memRange (hexX 0xF x 0x65) (some (max s.index.toNat 0x1000)))

/-- R82: the fetch that follows FX33 or FX55 sees the bytes it stored. -/
def Obligations.StoreIsSeenByTheNextFetch : Prop :=
  ∀ (x : Reg) (s t : State), Memory.wf s.params.fontRom s.mem →
    ∀ i ∈ [Instr.ldBVx x, Instr.storeRegs x],
      s.index.toNat + (storedBytes i s).length ≤ 0x1000 → s.pc.toNat + 3 ≤ 0xFFF → exec i s = .next t →
      let after (a : Nat) : Byte :=
        if s.index.toNat ≤ a ∧ a < s.index.toNat + (storedBytes i s).length then
          (storedBytes i s).getD (a - s.index.toNat) 0
        else s.readByte a
      t.fetch? = some (wordOfBytes (after (s.pc.toNat + 2)) (after (s.pc.toNat + 3)))

/-! ## Display -/

/-- R220. -/
def Obligations.ClearClearsEveryPixel : Prop :=
  ∀ s : State, decodeWord 0x00E0#16 = .cls ∧
    ∃ t, exec .cls s = .next t ∧ (∀ px py, t.fb.pixel px py = false) ∧ t.pc = s.pc + 2#16 ∧
      OnlyChanges [.fb, .pc] s t

/-- R221, R222. -/
def Obligations.DrawXorsTheClippedSpriteOrFaults : Prop :=
  ∀ (x y : Reg) (n : Fin 16) (s : State),
    let rows := drawnRowCount s y n
    decodeWord (hexXYN 0xD x y n.val) = .drw x y n ∧
    (rows = 0 ∨ s.index.toNat + rows - 1 ≤ 0xFFF →
      ∃ t, exec (.drw x y n) s = .next t ∧
        (∀ px py, px ≤ 63 → py ≤ 31 →
          (SpriteLands s x y n px py → t.fb.pixel px py = !s.fb.pixel px py) ∧
          (¬SpriteLands s x y n px py → t.fb.pixel px py = s.fb.pixel px py)) ∧
        ((∃ px py, SpriteLands s x y n px py ∧ s.fb.pixel px py = true) → (t.reg 15).toNat = 1) ∧
        ((¬∃ px py, SpriteLands s x y n px py ∧ s.fb.pixel px py = true) → (t.reg 15).toNat = 0) ∧
        (∀ r, r ≠ 15 → t.reg r = s.reg r) ∧ t.pc = s.pc + 2#16 ∧ OnlyChanges [.fb, .regs, .pc] s t) ∧
    (0 < rows ∧ s.index.toNat + rows - 1 > 0xFFF →
      Raises (.drw x y n) s .memRange (hexXYN 0xD x y n.val) (some (max s.index.toNat 0x1000)))

/-- R223: a second draw at the same origin restores the frame buffer, and its flag says whether a sprite bit
lands on a pixel that the first draw turned on. -/
def Obligations.DrawingTwiceRestoresTheFrameBuffer : Prop :=
  ∀ (x y : Reg) (n : Fin 16) (s t u : State),
    s.fault = none → exec (.drw x y n) s = .next t → t.fault = none →
    (t.reg x).toNat % 64 = (s.reg x).toNat % 64 → (t.reg y).toNat % 32 = (s.reg y).toNat % 32 →
    exec (.drw x y n) t = .next u →
    u.fb = s.fb ∧
      ((u.reg 15).toNat = 1 ↔
        ∃ px py, SpriteLands s x y n px py ∧ s.fb.pixel px py = false ∧ t.fb.pixel px py = true)

/-! ## Keys and timers -/

/-- R250, R251. -/
def Obligations.KeySkipsReadTheSnapshotOrFault : Prop :=
  ∀ (x : Reg) (s : State),
    let k := (s.reg x).toNat
    decodeWord (hexX 0xE x 0x9E) = .skp x ∧ decodeWord (hexX 0xE x 0xA1) = .sknp x ∧
    (k ≤ 15 → SkipsIf (.skp x) s (s.key.getLsbD k = true) ∧ SkipsIf (.sknp x) s (s.key.getLsbD k = false)) ∧
    (k > 15 → Raises (.skp x) s .keyRange (hexX 0xE x 0x9E) (some k) ∧
      Raises (.sknp x) s .keyRange (hexX 0xE x 0xA1) (some k))

/-- R252, R253, R254. -/
def Obligations.TimerTransfersMoveOneByte : Prop :=
  ∀ (x : Reg) (s : State),
    (decodeWord (hexX 0xF x 0x07) = .ldVxDt x ∧ WritesReg (.ldVxDt x) s x s.dt) ∧
    (decodeWord (hexX 0xF x 0x15) = .ldDtVx x ∧
      ∃ t, exec (.ldDtVx x) s = .next t ∧ t.dt = s.reg x ∧ t.pc = s.pc + 2#16 ∧ OnlyChanges [.dt, .pc] s t) ∧
    (decodeWord (hexX 0xF x 0x18) = .ldStVx x ∧
      ∃ t, exec (.ldStVx x) s = .next t ∧ t.st = s.reg x ∧ t.pc = s.pc + 2#16 ∧ OnlyChanges [.st, .pc] s t)

/-- R255: the four cases of the wait for a key. -/
def Obligations.KeyWaitLatchesTheLowestKeyUntilRelease : Prop :=
  ∀ (x : Reg) (s : State),
    decodeWord (hexX 0xF x 0x0A) = .ldVxK x ∧
    (s.kwPressed = false → (∀ k : Reg, s.key.getLsbD k.val = false) → exec (.ldVxK x) s = .next s) ∧
    (s.kwPressed = false → ∀ k : Reg, s.key.getLsbD k.val = true →
      (∀ j : Reg, j < k → s.key.getLsbD j.val = false) →
      exec (.ldVxK x) s = .next { s with kwPressed := true, kwKey := k }) ∧
    (s.kwPressed = true → s.key.getLsbD s.kwKey.val = true → exec (.ldVxK x) s = .next s) ∧
    (s.kwPressed = true → s.key.getLsbD s.kwKey.val = false →
      ∃ t, exec (.ldVxK x) s = .next t ∧
        (∀ r, (t.reg r).toNat = if r = x then s.kwKey.val else (s.reg r).toNat) ∧
        t.kwPressed = false ∧ t.kwKey = s.kwKey ∧ t.pc = s.pc + 2#16 ∧ OnlyChanges [.regs, .latch, .pc] s t)

/-! ## Rules over all instructions -/

/-- R271: a faulting instruction changes the fault record and nothing else, and no step runs from then on.
That raising the fault is a next state and the step after it the error outcome is the model's choice, log 3. -/
def Obligations.FaultingInstructionDoesNothingElse : Prop :=
  (∀ (i : Instr) (s t : State), s.fault = none → exec i s = .next t → t.fault ≠ none →
    ∃ r, r.pc = s.pc ∧ t = { s with fault := some r }) ∧
  ∀ (s : State) (r : FaultRecord), s.fault = some r → step s = .fault (.stopped r)

/-- R270: each instruction raises exactly the fault of the table, with its record, exactly when the table
says; no other instruction and no other condition raises one. -/
def Obligations.FaultsAreExactlyThoseOfTheTable : Prop :=
  ∀ (i : Instr) (s t : State), s.fault = none → exec i s = .next t → t.fault = faultOf i s

/-- R134: every instruction that raises no fault completes, with the net pc of the table. -/
def Obligations.EveryInstructionCompletesWithItsNetPc : Prop :=
  ∀ (i : Instr) (s : State), faultOf i s = none →
    ∃ t, exec i s = .next t ∧ t.pc = netPc i s ∧ t.fault = s.fault

/-- R77, R38, R41, R43, R44, R50, R54, R56: what each instruction that raises no fault leaves alone. -/
def Obligations.EveryInstructionKeepsWhatItDoesNotName : Prop :=
  ∀ (i : Instr) (s t : State), faultOf i s = none → exec i s = .next t → OnlyChanges (mayChange i) s t

/-- R61: VF is written as the flag by six instructions, and otherwise only where X = F is the destination. -/
def Obligations.OnlyFlagInstructionsAndNamedDestinationsWriteVf : Prop :=
  ∀ (i : Instr) (s t : State), exec i s = .next t → t.reg 15 ≠ s.reg 15 → mayWriteVf i

/-! ## The step and the tick -/

/-- R130, R132: in a batch with a step left, the step is exec of the instruction whose bytes stand at pc,
applied to the state with that step counted. The batch counter is the model's, log 4. -/
def Obligations.StepRunsTheDecodedInstruction : Prop :=
  ∀ (s : State) (i : Instr) (n : Nat), s.fault = none → s.sched = .batch (n + 1) → s.pc.toNat ≤ 0xFFE →
    decode [s.readByte s.pc.toNat, s.readByte (s.pc.toNat + 1)] = .ok (i, []) →
    step s = exec i { s with sched := .batch n }

/-- R131: a fetch above 0xFFE faults, reading nothing. The outcome's form and the batch counter are the model's,
log 3, log 4. -/
def Obligations.FetchOutOfRangeFaults : Prop :=
  ∀ (s : State) (n : Nat), s.fault = none → s.sched = .batch (n + 1) → s.pc.toNat > 0xFFE →
    step s = .next { s with
      sched := .batch n
      fault := some
        { code := .fetchRange, pc := s.pc, word := none, addr := some (max s.pc.toNat 0x1000) } }

/-- R290, R296: a tick start polls the keys and begins a batch of IPT steps, or takes a stop, or, halted,
changes nothing. That it is a step of its own and how inputs are supplied are the model's choice, log 4, log 6;
that a halted core's step answers the same state as a next state is the model's reading, log 10. -/
def Obligations.TickStartPollsOrStops : Prop :=
  ∀ s : State, s.fault = none → s.sched = .idle →
    (s.run = .halted → step s = .next s) ∧
    (s.run = .running → s.nextInput.stop = true →
      ∃ t, step s = .next t ∧ t.run = .halted ∧ t.env.inputs = s.env.inputs.tail ∧
        t.env.tick = s.env.tick + 1 ∧ t.env.randIn = s.env.randIn ∧ t.env.draws = s.env.draws ∧
        OnlyChanges [.run, .env] s t) ∧
    (s.run = .running → s.nextInput.stop = false →
      ∃ t, step s = .next t ∧ t.key = s.nextInput.keys ∧ t.sched = .batch s.params.ipt ∧
        t.env.inputs = s.env.inputs.tail ∧ t.env.tick = s.env.tick + 1 ∧ t.env.randIn = s.env.randIn ∧
        t.env.draws = s.env.draws ∧ OnlyChanges [.key, .sched, .env] s t)

/-- R291, R293, R290: the end of a tick counts both timers down, saturating, and exposes the frame buffer
and the sound gate as they then stand. That it is a step of its own is the model's choice, log 4. -/
def Obligations.TickEndCountsDownAndExposes : Prop :=
  ∀ s : State, s.fault = none → s.sched = .batch 0 →
    ∃ t, step s = .next t ∧ t.dt.toNat = s.dt.toNat - 1 ∧ t.st.toNat = s.st.toNat - 1 ∧
      t.ports.fbOut = s.fb ∧ (t.ports.soundGate = true ↔ t.st.toNat ≠ 0) ∧ t.ports.diag = s.ports.diag ∧
      t.sched = .idle ∧ OnlyChanges [.dt, .st, .ports, .sched] s t

/-- R56, R296: the run state changes only at a tick start that takes a stop, and only to HALTED. Sampling the stop
there is the model's choice among those R296 allows, log 6. -/
def Obligations.RunStateOnlyEverHalts : Prop :=
  ∀ s t : State, step s = .next t → t.run ≠ s.run →
    s.run = .running ∧ t.run = .halted ∧ s.sched = .idle ∧ s.nextInput.stop = true

/-- R116: a core with no fault recorded always has a next state: no word and no data make the step itself an error
outcome. That the step which raises a fault (after which, R271, the core stops) still answers a next state is the
model's choice, log 3, and that a halted core's step answers one the model's reading, log 10. -/
def Obligations.StepAlwaysProceedsWithoutAFault : Prop :=
  ∀ s : State, s.fault = none → ∃ t, step s = .next t

/-- R50, R63: the key snapshot is constant within a tick. The tick start as a step is the model's choice, log 4. -/
def Obligations.KeySnapshotChangesOnlyAtTickStart : Prop :=
  ∀ s t : State, step s = .next t → t.key ≠ s.key → s.sched = .idle ∧ t.key = s.nextInput.keys

/-- R62: the configuration is fixed for the life of the state. That it stands in State is the model's choice, log 1. -/
def Obligations.ParametersNeverChange : Prop :=
  ∀ s t : State, step s = .next t → t.params = s.params

/-- R280: what the ports have recorded is never read: with other port contents the step goes the same way. -/
def Obligations.PortContentsAreNeverRead : Prop :=
  ∀ (s t : State) (p : Ports), step s = .next t →
    ∃ q, step { s with ports := p } = .next { t with ports := q }

/-- R290: the machine's steps from one tick start to the next are the spec's Tick, or end in the error
outcome with the record that Tick leaves. The cutting of the tick into steps and the form of the error outcome
are the model's choice, log 3, log 4, log 6. -/
def Obligations.StepsOfOneTickAreTheSpecsTick : Prop :=
  ∀ s : State, s.fault = none → s.run = .running → s.sched = .idle → s.nextInput.stop = false →
    Host.Core.run core (s.params.ipt + 2) s =
      match (specTick s).fault with
      | none => .next (specTick s)
      | some r => .fault (.stopped r)

/-- R323, R291: with empty batches, k ticks take k off each timer, never below 0. That a tick with an empty batch is
two steps is the model's choice, log 4, and so is that its input is the next entry of env.inputs, log 6. -/
def Obligations.EmptyTicksCountTheTimersDown : Prop :=
  ∀ (k : Nat) (s : State), s.fault = none → s.run = .running → s.sched = .idle → s.params.ipt = 0 →
    k ≤ s.env.inputs.length → (∀ i ∈ s.env.inputs.take k, i.stop = false) →
    ∃ t : State, Host.Core.run core (2 * k) s = .next t ∧ t.dt.toNat = s.dt.toNat - k ∧
      t.st.toNat = s.st.toNat - k ∧ t.sched = .idle ∧ t.pc = s.pc

/-! ## Invariants -/

/-- Every step keeps memory canonical, pc within reach, and the return addresses in use within reach (R134). -/
def Obligations.StepKeepsReachInvariant : Prop :=
  ∀ s t : State, s.Inv → step s = .next t → t.Inv

/-- R255: every step keeps the rule that a set key-wait latch belongs to the FX0A at pc. -/
def Obligations.StepKeepsLatchInvariant : Prop :=
  ∀ s t : State, s.LatchInv → step s = .next t → t.LatchInv

/-- R270, R57, R73: whatever fault a step leaves recorded, the record is the one the table gives for the instruction
at pc. Only a step from a core with no fault answers a next state, so every record is one a step has just left. -/
def Obligations.StepKeepsFaultRecordTruthful : Prop :=
  ∀ s t : State, step s = .next t → t.FaultInv

/-- R296: every step keeps a halted core between ticks (the place in the tick is the model's field, log 4). -/
def Obligations.StepKeepsHaltedBetweenTicks : Prop :=
  ∀ s t : State, s.RunInv → step s = .next t → t.RunInv

/-- The state after reset meets the four invariants. -/
def Obligations.ResetMeetsTheInvariants : Prop :=
  State.reset.Inv ∧ State.reset.LatchInv ∧ State.reset.FaultInv ∧ State.reset.RunInv

/-- So does every state that Reset makes of a program image (R310). -/
def Obligations.EveryBootedStateMeetsTheInvariants : Prop :=
  ∀ (params : Params) (env : Env) (image : List Byte) (s : State),
    State.boot params env image = .ok s → s.Inv ∧ s.LatchInv ∧ s.FaultInv ∧ s.RunInv

/-! ## Reset -/

/-- R310, R312, R60: an image that is too long is a load error and makes no state; any other is loaded from
0x200, with the font below and zeros around it, and every other component at its reset value. The values of
the ports are the model's choice, log 8, and not part of this. -/
def Obligations.BootLoadsTheImageOrReports : Prop :=
  ∀ (params : Params) (env : Env) (image : List Byte),
    (image.length > 3584 → State.boot params env image = .error .imageTooLong) ∧
    (image.length ≤ 3584 →
      ∃ s, State.boot params env image = .ok s ∧
        (∀ a, a ≤ 0xFFF → s.readByte a =
          if 0x200 ≤ a ∧ a < 0x200 + image.length then image.getD (a - 0x200) 0
          else if a ≤ 0x4F then params.fontRom.toList.getD a 0 else 0) ∧
        (∀ r, s.reg r = 0) ∧ s.index = 0 ∧ s.pc = 0x200 ∧ s.sp.val = 0 ∧ (∀ k : Fin 24, s.stack[k] = 0) ∧
        s.dt = 0 ∧ s.st = 0 ∧ (∀ k, s.key.getLsbD k = false) ∧ (∀ px py, s.fb.pixel px py = false) ∧
        s.run = .running ∧ s.kwPressed = false ∧ s.kwKey = 0 ∧ s.fault = none ∧
        s.params = params ∧ s.env = env)

/-- R311: the state after reset is that of the empty image. -/
def Obligations.ResetIsBootOfTheEmptyImage : Prop :=
  State.boot State.reset.params State.reset.env [] = .ok State.reset

/-- The word placed by withFetchWord is the one the very next step runs (the model's choice, log 14). -/
def Obligations.PlacedWordIsRunByTheNextStep : Prop :=
  ∀ (s : State) (w : Word), s.fault = none → Memory.wf s.params.fontRom s.mem → s.pc.toNat ≤ 0xFFE →
    ∃ n, (s.withFetchWord 16 w.toNat).sched = .batch (n + 1) ∧
      step (s.withFetchWord 16 w.toNat) =
        exec (decodeWord w) { s.withFetchWord 16 w.toNat with sched := .batch n } ∧
      OnlyChanges [.mem, .sched] s (s.withFetchWord 16 w.toNat) ∧
      ∀ a, a ≠ s.pc.toNat → a ≠ s.pc.toNat + 1 →
        (s.withFetchWord 16 w.toNat).readByte a = s.readByte a
end

