-- ==== Sys2Proof/Laws/Codec.lean ====
section
/-! SUPPORT. Laws of the fields of a word: each is read back from the word, byte or address made of it. -/

namespace Sys2Proof

theorem append_toNat {a b : Nat} (x : BitVec a) (y : BitVec b) :
    (x ++ y).toNat = x.toNat * 2 ^ b + y.toNat := by
  rw [BitVec.toNat_append, ← Nat.shiftLeft_add_eq_or_of_lt y.isLt, Nat.shiftLeft_eq]

theorem extract_toNat {a : Nat} (x : BitVec a) (s n : Nat) :
    (x.extractLsb' s n).toNat = x.toNat / 2 ^ s % 2 ^ n := by
  rw [BitVec.extractLsb'_toNat, Nat.shiftRight_eq_div_pow]

theorem wordOf_toNat (c x y n : Nibble) :
    (wordOf c x y n).toNat = c.toNat * 4096 + x.toNat * 256 + y.toNat * 16 + n.toNat := by
  simp only [wordOf, append_toNat]; omega

theorem byteOf_toNat (y n : Nibble) : (byteOf y n).toNat = y.toNat * 16 + n.toNat := by
  simp only [byteOf, append_toNat]; omega

theorem addrOf_toNat (x y n : Nibble) :
    (addrOf x y n).toNat = x.toNat * 256 + y.toNat * 16 + n.toNat := by
  simp only [addrOf, append_toNat]; omega

theorem wordOfBytes_toNat (hi lo : Byte) : (wordOfBytes hi lo).toNat = hi.toNat * 256 + lo.toNat := by
  simp only [wordOfBytes, append_toNat]; omega

@[simp] theorem cat_wordOf (c x y n : Nibble) : (wordOf c x y n).cat = c := by
  apply BitVec.eq_of_toNat_eq
  simp only [Word.cat, extract_toNat, wordOf_toNat]; omega

@[simp] theorem nibX_wordOf (c x y n : Nibble) : (wordOf c x y n).nibX = x := by
  apply BitVec.eq_of_toNat_eq
  simp only [Word.nibX, extract_toNat, wordOf_toNat]; omega

@[simp] theorem nibY_wordOf (c x y n : Nibble) : (wordOf c x y n).nibY = y := by
  apply BitVec.eq_of_toNat_eq
  simp only [Word.nibY, extract_toNat, wordOf_toNat]; omega

@[simp] theorem nibN_wordOf (c x y n : Nibble) : (wordOf c x y n).nibN = n := by
  apply BitVec.eq_of_toNat_eq
  simp only [Word.nibN, extract_toNat, wordOf_toNat]; omega

@[simp] theorem lo_wordOf (c x y n : Nibble) : (wordOf c x y n).lo = byteOf y n := by
  apply BitVec.eq_of_toNat_eq
  simp only [Word.lo, extract_toNat, wordOf_toNat, byteOf_toNat]; omega

/-- The four nibbles of a word make the word. -/
@[simp] theorem wordOf_nibbles (w : Word) : wordOf w.cat w.nibX w.nibY w.nibN = w := by
  apply BitVec.eq_of_toNat_eq
  simp only [wordOf_toNat, Word.cat, Word.nibX, Word.nibY, Word.nibN, extract_toNat]; omega

/-- The two bytes of a word make the word. -/
@[simp] theorem wordOfBytes_hi_lo (w : Word) : wordOfBytes w.hi w.lo = w := by
  apply BitVec.eq_of_toNat_eq
  simp only [wordOfBytes_toNat, Word.hi, Word.lo, extract_toNat]; omega

@[simp] theorem byteOf_nibbles (b : Byte) :
    byteOf (b.extractLsb' 4 4) (b.extractLsb' 0 4) = b := by
  apply BitVec.eq_of_toNat_eq
  simp only [byteOf_toNat, extract_toNat]; omega

@[simp] theorem hi_nibble_byteOf (y n : Nibble) : (byteOf y n).extractLsb' 4 4 = y := by
  apply BitVec.eq_of_toNat_eq
  simp only [extract_toNat, byteOf_toNat]; omega

@[simp] theorem lo_nibble_byteOf (y n : Nibble) : (byteOf y n).extractLsb' 0 4 = n := by
  apply BitVec.eq_of_toNat_eq
  simp only [extract_toNat, byteOf_toNat]; omega

/-- The low byte of a word in nibbles. -/
theorem lo_eq_byteOf (w : Word) : w.lo = byteOf w.nibY w.nibN := by
  have h := lo_wordOf w.cat w.nibX w.nibY w.nibN
  rwa [wordOf_nibbles] at h

/-- Which nibbles make a word. -/
theorem wordOf_eq_iff {c x y n : Nibble} {w : Word} :
    wordOf c x y n = w ↔ c = w.cat ∧ x = w.nibX ∧ y = w.nibY ∧ n = w.nibN := by
  constructor
  · rintro rfl; simp
  · rintro ⟨rfl, rfl, rfl, rfl⟩; exact wordOf_nibbles w

@[simp] theorem addrOf_nibbles (a : Addr12) :
    addrOf (a.extractLsb' 8 4) (a.extractLsb' 4 4) (a.extractLsb' 0 4) = a := by
  apply BitVec.eq_of_toNat_eq
  simp only [addrOf_toNat, extract_toNat]; omega

/-- Which nibbles make a byte. -/
theorem byteOf_eq_iff {y n : Nibble} {b : Byte} :
    byteOf y n = b ↔ y = b.extractLsb' 4 4 ∧ n = b.extractLsb' 0 4 := by
  constructor
  · rintro rfl; simp
  · rintro ⟨rfl, rfl⟩; exact byteOf_nibbles b

/-- A category that is none of the first fifteen is the last. -/
theorem cat_eq_F {c : Nibble} (h : ∀ k : Fin 15, c ≠ BitVec.ofNat 4 k.val) : c = 0xF#4 := by
  revert c; decide

@[simp] theorem high_nibble_addrOf (x y n : Nibble) : (addrOf x y n).extractLsb' 8 4 = x := by
  apply BitVec.eq_of_toNat_eq
  simp only [extract_toNat, addrOf_toNat]; omega

@[simp] theorem mid_nibble_addrOf (x y n : Nibble) : (addrOf x y n).extractLsb' 4 4 = y := by
  apply BitVec.eq_of_toNat_eq
  simp only [extract_toNat, addrOf_toNat]; omega

@[simp] theorem low_nibble_addrOf (x y n : Nibble) : (addrOf x y n).extractLsb' 0 4 = n := by
  apply BitVec.eq_of_toNat_eq
  simp only [extract_toNat, addrOf_toNat]; omega

@[simp] theorem idx_nibOf (k : Fin 16) : (nibOf k).idx = k := by
  revert k; decide

@[simp] theorem nibOf_idx (n : Nibble) : nibOf n.idx = n := by
  apply BitVec.eq_of_toNat_eq
  simp [nibOf, Nibble.idx]

/-- Decoding a word given by its nibbles is decoding the nibbles. -/
@[simp] theorem decodeWord_wordOf (c x y n : Nibble) :
    decodeWord (wordOf c x y n) = decodeNibbles c x y n := by
  simp [decodeWord]

/-- The bytes of an instruction are its word's, so decoding them is decoding the word. -/
theorem decode_encode_append (i : Instr) (rest : List Byte) :
    decode (encode i ++ rest) = .ok (decodeWord (encodeWord i), rest) := by
  simp [decode, encode]

end Sys2Proof
end

