-- ==== Sys2Proof/Laws/Memory.lean ====
section
/-! SUPPORT. Laws of the memory image: a read gives the last byte written, a write leaves every other
address alone, and every operation keeps the canonical form (20_memory.md R72, R81). -/

namespace Sys2Proof.Machine

variable {font : FontRom}

theorem Memory.read_of_lt (m : Memory) (a : Nat) (h : ∀ c ∈ m, a < c.1) :
    Memory.read font m a = Memory.unlisted font a := by
  induction m with
  | nil => rfl
  | cons c m ih =>
    have hc := h c (by simp)
    rw [Memory.read, if_neg (by omega), ih fun d hd => h d (by simp [hd])]

theorem Memory.mem_put {m : Memory} {a : Nat} {v : Byte} {c : Host.Cell}
    (h : c ∈ Memory.put font a v m) : c ∈ m ∨ (c = (a, v) ∧ v ≠ Memory.unlisted font a) := by
  induction m with
  | nil =>
    by_cases hv : v = Memory.unlisted font a <;> simp_all [Memory.put]
  | cons d m ih =>
    simp only [Memory.put] at h
    split at h
    · rcases List.mem_cons.1 h with rfl | h
      · simp
      · rcases ih h with h | h
        · exact .inl (List.mem_cons_of_mem _ h)
        · exact .inr h
    · split at h
      · left; split at h <;> simp_all
      · rcases List.mem_cons.1 h with rfl | h
        · exact .inr ⟨rfl, ‹_›⟩
        · left; split at h <;> simp_all

/-- A read after a put: the byte put, or what was there. -/
theorem Memory.read_put {m : Memory} (hm : m.Pairwise fun c d => c.1 < d.1) (a : Nat) (v : Byte)
    (b : Nat) :
    Memory.read font (Memory.put font a v m) b = if b = a then v else Memory.read font m b := by
  induction m with
  | nil =>
    by_cases hv : v = Memory.unlisted font a <;> by_cases hb : b = a <;>
      simp_all [Memory.put, Memory.read]
  | cons d m ih =>
    obtain ⟨hd, hm⟩ := List.pairwise_cons.1 hm
    simp only [Memory.put]
    split
    · rename_i hlt
      simp only [Memory.read, ih hm]
      by_cases hbd : b = d.1
      · rw [if_pos hbd, if_pos hbd, if_neg (by omega)]
      · rw [if_neg hbd, if_neg hbd]
    · rename_i hlt
      have hfree : a ≠ d.1 → ∀ c ∈ d :: m, a < c.1 := by
        intro hne c hc
        rcases List.mem_cons.1 hc with rfl | hc
        · omega
        · have := hd c hc; omega
      by_cases hv : v = Memory.unlisted font a
      · rw [if_pos hv]
        split
        · rename_i had
          by_cases hb : b = a
          · subst hb
            rw [if_pos rfl, Memory.read_of_lt m _ (fun c hc => by have := hd c hc; omega), hv]
          · rw [if_neg hb, Memory.read, if_neg (by omega)]
        · rename_i had
          by_cases hb : b = a
          · subst hb
            rw [if_pos rfl, Memory.read_of_lt _ _ (hfree had), hv]
          · rw [if_neg hb]
      · rw [if_neg hv, Memory.read]
        by_cases hb : b = a
        · rw [if_pos hb, if_pos hb]
        · rw [if_neg hb, if_neg hb]
          split
          · rw [Memory.read, if_neg (by omega)]
          · rfl

theorem Memory.wf_put {m : Memory} (hm : Memory.wf font m) {a : Nat} (ha : a < memSize) (v : Byte) :
    Memory.wf font (Memory.put font a v m) := by
  obtain ⟨hp, hc⟩ := hm
  refine ⟨?_, fun c h => ?_⟩
  · clear hc
    induction m with
    | nil => simp only [Memory.put]; split <;> simp
    | cons d m ih =>
      obtain ⟨hd, hm⟩ := List.pairwise_cons.1 hp
      simp only [Memory.put]
      split
      · rename_i hlt
        refine List.pairwise_cons.2 ⟨fun c h => ?_, ih hm⟩
        rcases Memory.mem_put h with h | ⟨rfl, -⟩
        · exact hd c h
        · exact hlt
      · rename_i hlt
        have htail : (if a = d.1 then m else d :: m).Pairwise fun c d => c.1 < d.1 := by
          split
          · exact hm
          · exact hp
        have hfree : ∀ c ∈ (if a = d.1 then m else d :: m), a < c.1 := by
          intro c h
          split at h
          · have := hd c h; omega
          · rcases List.mem_cons.1 h with rfl | h
            · omega
            · have := hd c h; omega
        split
        · exact htail
        · exact List.pairwise_cons.2 ⟨hfree, htail⟩
  · rcases Memory.mem_put h with h | ⟨rfl, hv⟩
    · exact hc c h
    · exact ⟨ha, hv⟩

/-- A read after a write inside the space. -/
theorem Memory.read_write {m : Memory} (hm : Memory.wf font m) {a : Nat} (ha : a < memSize) (v : Byte)
    (b : Nat) :
    Memory.read font (Memory.write font m a v) b = if b = a then v else Memory.read font m b := by
  rw [Memory.write, if_pos ha, Memory.read_put hm.1]

/-- A write keeps the canonical form. -/
theorem Memory.wf_write {m : Memory} (hm : Memory.wf font m) (a : Nat) (v : Byte) :
    Memory.wf font (Memory.write font m a v) := by
  unfold Memory.write
  split
  · exact Memory.wf_put hm ‹_› v
  · exact hm

/-- Writing many bytes keeps the canonical form. -/
theorem Memory.wf_writeBytes {m : Memory} (hm : Memory.wf font m) (a : Nat) (bs : List Byte) :
    Memory.wf font (Memory.writeBytes font m a bs) := by
  induction bs generalizing m a with
  | nil => exact hm
  | cons v bs ih => exact ih (Memory.wf_write hm a v) (a + 1)

/-- A read after many bytes are written inside the space: the byte written there, or what was there. -/
theorem Memory.read_writeBytes {m : Memory} (hm : Memory.wf font m) (a : Nat) (bs : List Byte)
    (h : a + bs.length ≤ memSize) (b : Nat) :
    Memory.read font (Memory.writeBytes font m a bs) b =
      if a ≤ b ∧ b < a + bs.length then bs.getD (b - a) 0 else Memory.read font m b := by
  induction bs generalizing m a with
  | nil => rw [if_neg (by simp), Memory.writeBytes]
  | cons v bs ih =>
    simp only [List.length_cons] at h ⊢
    rw [Memory.writeBytes, ih (Memory.wf_write hm a v) (a + 1) (by omega),
      Memory.read_write hm (by omega)]
    by_cases hb : b = a
    · subst hb
      rw [if_neg (by omega), if_pos rfl, if_pos (by omega)]; simp
    · rw [if_neg hb]
      by_cases hr : a + 1 ≤ b ∧ b < a + 1 + bs.length
      · obtain ⟨k, hk⟩ : ∃ k, b - a = k + 1 := ⟨b - a - 1, by omega⟩
        rw [if_pos hr, if_pos (by omega), hk, List.getD_cons_succ, show b - (a + 1) = k by omega]
      · rw [if_neg hr, if_neg (by omega)]

/-- Above the space nothing is listed, so a read there gives what an unlisted address reads as. -/
theorem Memory.read_of_ge {m : Memory} (hm : Memory.wf font m) {a : Nat} (ha : memSize ≤ a) :
    Memory.read font m a = Memory.unlisted font a := by
  have h : ∀ c ∈ m, c.1 < memSize := fun c hc => (hm.2 c hc).1
  clear hm
  induction m with
  | nil => rfl
  | cons c m ih =>
    have := h c (by simp)
    rw [Memory.read, if_neg (by omega), ih fun d hd => h d (by simp [hd])]

/-- Memories in canonical form that read alike are equal data. -/
theorem Memory.ext_of_read {m n : Memory} (hm : Memory.wf font m) (hn : Memory.wf font n)
    (h : ∀ a, Memory.read font m a = Memory.read font n a) : m = n := by
  induction m generalizing n with
  | nil =>
    cases n with
    | nil => rfl
    | cons d n =>
      exact absurd (by simpa [Memory.read] using (h d.1).symm) (hn.2 d (by simp)).2
  | cons c m ih =>
    obtain ⟨hc, hm'⟩ := List.pairwise_cons.1 hm.1
    cases n with
    | nil => exact absurd (by simpa [Memory.read] using h c.1) (hm.2 c (by simp)).2
    | cons d n =>
      obtain ⟨hd, hn'⟩ := List.pairwise_cons.1 hn.1
      have hcd : c.1 = d.1 := by
        rcases Nat.lt_trichotomy c.1 d.1 with hlt | heq | hgt
        · refine absurd ?_ (hm.2 c (by simp)).2
          have := h c.1
          rw [Memory.read, if_pos rfl, Memory.read_of_lt (d :: n)] at this
          · exact this
          · intro e he
            rcases List.mem_cons.1 he with rfl | he
            · exact hlt
            · have := hd e he; omega
        · exact heq
        · refine absurd ?_ (hn.2 d (by simp)).2
          have := (h d.1).symm
          rw [Memory.read, if_pos rfl, Memory.read_of_lt (c :: m)] at this
          · exact this
          · intro e he
            rcases List.mem_cons.1 he with rfl | he
            · exact hgt
            · have := hc e he; omega
      have hv : c.2 = d.2 := by
        have := h c.1
        rwa [Memory.read, if_pos rfl, Memory.read, if_pos hcd] at this
      have hcell : c = d := Prod.ext hcd hv
      subst hcell
      congr 1
      refine ih ⟨hm', fun e he => hm.2 e (by simp [he])⟩ ⟨hn', fun e he => hn.2 e (by simp [he])⟩
        fun a => ?_
      by_cases ha : a = c.1
      · rw [Memory.read_of_lt m a fun e he => by have := hc e he; omega,
          Memory.read_of_lt n a fun e he => by have := hd e he; omega]
      · have := h a
        rwa [Memory.read, if_neg ha, Memory.read, if_neg ha] at this

end Sys2Proof.Machine
end

