-- ==== Sys2Proof/Laws/State.lean ====
section
/-! SUPPORT. One lemma per field of State for each named update: what it writes, and that it leaves the rest. -/

namespace Sys2Proof.Machine

variable (s : State)

/-! ## setReg -/

@[simp] theorem State.setReg_mem (x : Reg) (b : Byte) : (s.setReg x b).mem = s.mem := rfl
@[simp] theorem State.setReg_v (x : Reg) (b : Byte) : (s.setReg x b).v = s.v.set x.val b x.isLt := rfl
@[simp] theorem State.setReg_index (x : Reg) (b : Byte) : (s.setReg x b).index = s.index := rfl
@[simp] theorem State.setReg_pc (x : Reg) (b : Byte) : (s.setReg x b).pc = s.pc := rfl
@[simp] theorem State.setReg_stack (x : Reg) (b : Byte) : (s.setReg x b).stack = s.stack := rfl
@[simp] theorem State.setReg_sp (x : Reg) (b : Byte) : (s.setReg x b).sp = s.sp := rfl
@[simp] theorem State.setReg_dt (x : Reg) (b : Byte) : (s.setReg x b).dt = s.dt := rfl
@[simp] theorem State.setReg_st (x : Reg) (b : Byte) : (s.setReg x b).st = s.st := rfl
@[simp] theorem State.setReg_key (x : Reg) (b : Byte) : (s.setReg x b).key = s.key := rfl
@[simp] theorem State.setReg_kwPressed (x : Reg) (b : Byte) : (s.setReg x b).kwPressed = s.kwPressed := rfl
@[simp] theorem State.setReg_kwKey (x : Reg) (b : Byte) : (s.setReg x b).kwKey = s.kwKey := rfl
@[simp] theorem State.setReg_fb (x : Reg) (b : Byte) : (s.setReg x b).fb = s.fb := rfl
@[simp] theorem State.setReg_run (x : Reg) (b : Byte) : (s.setReg x b).run = s.run := rfl
@[simp] theorem State.setReg_fault (x : Reg) (b : Byte) : (s.setReg x b).fault = s.fault := rfl
@[simp] theorem State.setReg_ports (x : Reg) (b : Byte) : (s.setReg x b).ports = s.ports := rfl
@[simp] theorem State.setReg_sched (x : Reg) (b : Byte) : (s.setReg x b).sched = s.sched := rfl
@[simp] theorem State.setReg_env (x : Reg) (b : Byte) : (s.setReg x b).env = s.env := rfl
@[simp] theorem State.setReg_params (x : Reg) (b : Byte) : (s.setReg x b).params = s.params := rfl

/-! ## setRegs -/

@[simp] theorem State.setRegs_mem (v : Vector Byte 16) : (s.setRegs v).mem = s.mem := rfl
@[simp] theorem State.setRegs_v (v : Vector Byte 16) : (s.setRegs v).v = v := rfl
@[simp] theorem State.setRegs_index (v : Vector Byte 16) : (s.setRegs v).index = s.index := rfl
@[simp] theorem State.setRegs_pc (v : Vector Byte 16) : (s.setRegs v).pc = s.pc := rfl
@[simp] theorem State.setRegs_stack (v : Vector Byte 16) : (s.setRegs v).stack = s.stack := rfl
@[simp] theorem State.setRegs_sp (v : Vector Byte 16) : (s.setRegs v).sp = s.sp := rfl
@[simp] theorem State.setRegs_dt (v : Vector Byte 16) : (s.setRegs v).dt = s.dt := rfl
@[simp] theorem State.setRegs_st (v : Vector Byte 16) : (s.setRegs v).st = s.st := rfl
@[simp] theorem State.setRegs_key (v : Vector Byte 16) : (s.setRegs v).key = s.key := rfl
@[simp] theorem State.setRegs_kwPressed (v : Vector Byte 16) : (s.setRegs v).kwPressed = s.kwPressed := rfl
@[simp] theorem State.setRegs_kwKey (v : Vector Byte 16) : (s.setRegs v).kwKey = s.kwKey := rfl
@[simp] theorem State.setRegs_fb (v : Vector Byte 16) : (s.setRegs v).fb = s.fb := rfl
@[simp] theorem State.setRegs_run (v : Vector Byte 16) : (s.setRegs v).run = s.run := rfl
@[simp] theorem State.setRegs_fault (v : Vector Byte 16) : (s.setRegs v).fault = s.fault := rfl
@[simp] theorem State.setRegs_ports (v : Vector Byte 16) : (s.setRegs v).ports = s.ports := rfl
@[simp] theorem State.setRegs_sched (v : Vector Byte 16) : (s.setRegs v).sched = s.sched := rfl
@[simp] theorem State.setRegs_env (v : Vector Byte 16) : (s.setRegs v).env = s.env := rfl
@[simp] theorem State.setRegs_params (v : Vector Byte 16) : (s.setRegs v).params = s.params := rfl

/-! ## setIndex -/

@[simp] theorem State.setIndex_mem (w : Word) : (s.setIndex w).mem = s.mem := rfl
@[simp] theorem State.setIndex_v (w : Word) : (s.setIndex w).v = s.v := rfl
@[simp] theorem State.setIndex_index (w : Word) : (s.setIndex w).index = w := rfl
@[simp] theorem State.setIndex_pc (w : Word) : (s.setIndex w).pc = s.pc := rfl
@[simp] theorem State.setIndex_stack (w : Word) : (s.setIndex w).stack = s.stack := rfl
@[simp] theorem State.setIndex_sp (w : Word) : (s.setIndex w).sp = s.sp := rfl
@[simp] theorem State.setIndex_dt (w : Word) : (s.setIndex w).dt = s.dt := rfl
@[simp] theorem State.setIndex_st (w : Word) : (s.setIndex w).st = s.st := rfl
@[simp] theorem State.setIndex_key (w : Word) : (s.setIndex w).key = s.key := rfl
@[simp] theorem State.setIndex_kwPressed (w : Word) : (s.setIndex w).kwPressed = s.kwPressed := rfl
@[simp] theorem State.setIndex_kwKey (w : Word) : (s.setIndex w).kwKey = s.kwKey := rfl
@[simp] theorem State.setIndex_fb (w : Word) : (s.setIndex w).fb = s.fb := rfl
@[simp] theorem State.setIndex_run (w : Word) : (s.setIndex w).run = s.run := rfl
@[simp] theorem State.setIndex_fault (w : Word) : (s.setIndex w).fault = s.fault := rfl
@[simp] theorem State.setIndex_ports (w : Word) : (s.setIndex w).ports = s.ports := rfl
@[simp] theorem State.setIndex_sched (w : Word) : (s.setIndex w).sched = s.sched := rfl
@[simp] theorem State.setIndex_env (w : Word) : (s.setIndex w).env = s.env := rfl
@[simp] theorem State.setIndex_params (w : Word) : (s.setIndex w).params = s.params := rfl

/-! ## setPc -/

@[simp] theorem State.setPc_mem (w : Word) : (s.setPc w).mem = s.mem := rfl
@[simp] theorem State.setPc_v (w : Word) : (s.setPc w).v = s.v := rfl
@[simp] theorem State.setPc_index (w : Word) : (s.setPc w).index = s.index := rfl
@[simp] theorem State.setPc_pc (w : Word) : (s.setPc w).pc = w := rfl
@[simp] theorem State.setPc_stack (w : Word) : (s.setPc w).stack = s.stack := rfl
@[simp] theorem State.setPc_sp (w : Word) : (s.setPc w).sp = s.sp := rfl
@[simp] theorem State.setPc_dt (w : Word) : (s.setPc w).dt = s.dt := rfl
@[simp] theorem State.setPc_st (w : Word) : (s.setPc w).st = s.st := rfl
@[simp] theorem State.setPc_key (w : Word) : (s.setPc w).key = s.key := rfl
@[simp] theorem State.setPc_kwPressed (w : Word) : (s.setPc w).kwPressed = s.kwPressed := rfl
@[simp] theorem State.setPc_kwKey (w : Word) : (s.setPc w).kwKey = s.kwKey := rfl
@[simp] theorem State.setPc_fb (w : Word) : (s.setPc w).fb = s.fb := rfl
@[simp] theorem State.setPc_run (w : Word) : (s.setPc w).run = s.run := rfl
@[simp] theorem State.setPc_fault (w : Word) : (s.setPc w).fault = s.fault := rfl
@[simp] theorem State.setPc_ports (w : Word) : (s.setPc w).ports = s.ports := rfl
@[simp] theorem State.setPc_sched (w : Word) : (s.setPc w).sched = s.sched := rfl
@[simp] theorem State.setPc_env (w : Word) : (s.setPc w).env = s.env := rfl
@[simp] theorem State.setPc_params (w : Word) : (s.setPc w).params = s.params := rfl

/-! ## setDt -/

@[simp] theorem State.setDt_mem (b : Byte) : (s.setDt b).mem = s.mem := rfl
@[simp] theorem State.setDt_v (b : Byte) : (s.setDt b).v = s.v := rfl
@[simp] theorem State.setDt_index (b : Byte) : (s.setDt b).index = s.index := rfl
@[simp] theorem State.setDt_pc (b : Byte) : (s.setDt b).pc = s.pc := rfl
@[simp] theorem State.setDt_stack (b : Byte) : (s.setDt b).stack = s.stack := rfl
@[simp] theorem State.setDt_sp (b : Byte) : (s.setDt b).sp = s.sp := rfl
@[simp] theorem State.setDt_dt (b : Byte) : (s.setDt b).dt = b := rfl
@[simp] theorem State.setDt_st (b : Byte) : (s.setDt b).st = s.st := rfl
@[simp] theorem State.setDt_key (b : Byte) : (s.setDt b).key = s.key := rfl
@[simp] theorem State.setDt_kwPressed (b : Byte) : (s.setDt b).kwPressed = s.kwPressed := rfl
@[simp] theorem State.setDt_kwKey (b : Byte) : (s.setDt b).kwKey = s.kwKey := rfl
@[simp] theorem State.setDt_fb (b : Byte) : (s.setDt b).fb = s.fb := rfl
@[simp] theorem State.setDt_run (b : Byte) : (s.setDt b).run = s.run := rfl
@[simp] theorem State.setDt_fault (b : Byte) : (s.setDt b).fault = s.fault := rfl
@[simp] theorem State.setDt_ports (b : Byte) : (s.setDt b).ports = s.ports := rfl
@[simp] theorem State.setDt_sched (b : Byte) : (s.setDt b).sched = s.sched := rfl
@[simp] theorem State.setDt_env (b : Byte) : (s.setDt b).env = s.env := rfl
@[simp] theorem State.setDt_params (b : Byte) : (s.setDt b).params = s.params := rfl

/-! ## setSt -/

@[simp] theorem State.setSt_mem (b : Byte) : (s.setSt b).mem = s.mem := rfl
@[simp] theorem State.setSt_v (b : Byte) : (s.setSt b).v = s.v := rfl
@[simp] theorem State.setSt_index (b : Byte) : (s.setSt b).index = s.index := rfl
@[simp] theorem State.setSt_pc (b : Byte) : (s.setSt b).pc = s.pc := rfl
@[simp] theorem State.setSt_stack (b : Byte) : (s.setSt b).stack = s.stack := rfl
@[simp] theorem State.setSt_sp (b : Byte) : (s.setSt b).sp = s.sp := rfl
@[simp] theorem State.setSt_dt (b : Byte) : (s.setSt b).dt = s.dt := rfl
@[simp] theorem State.setSt_st (b : Byte) : (s.setSt b).st = b := rfl
@[simp] theorem State.setSt_key (b : Byte) : (s.setSt b).key = s.key := rfl
@[simp] theorem State.setSt_kwPressed (b : Byte) : (s.setSt b).kwPressed = s.kwPressed := rfl
@[simp] theorem State.setSt_kwKey (b : Byte) : (s.setSt b).kwKey = s.kwKey := rfl
@[simp] theorem State.setSt_fb (b : Byte) : (s.setSt b).fb = s.fb := rfl
@[simp] theorem State.setSt_run (b : Byte) : (s.setSt b).run = s.run := rfl
@[simp] theorem State.setSt_fault (b : Byte) : (s.setSt b).fault = s.fault := rfl
@[simp] theorem State.setSt_ports (b : Byte) : (s.setSt b).ports = s.ports := rfl
@[simp] theorem State.setSt_sched (b : Byte) : (s.setSt b).sched = s.sched := rfl
@[simp] theorem State.setSt_env (b : Byte) : (s.setSt b).env = s.env := rfl
@[simp] theorem State.setSt_params (b : Byte) : (s.setSt b).params = s.params := rfl

/-! ## setLatch -/

@[simp] theorem State.setLatch_mem (p : Bool) (k : Reg) : (s.setLatch p k).mem = s.mem := rfl
@[simp] theorem State.setLatch_v (p : Bool) (k : Reg) : (s.setLatch p k).v = s.v := rfl
@[simp] theorem State.setLatch_index (p : Bool) (k : Reg) : (s.setLatch p k).index = s.index := rfl
@[simp] theorem State.setLatch_pc (p : Bool) (k : Reg) : (s.setLatch p k).pc = s.pc := rfl
@[simp] theorem State.setLatch_stack (p : Bool) (k : Reg) : (s.setLatch p k).stack = s.stack := rfl
@[simp] theorem State.setLatch_sp (p : Bool) (k : Reg) : (s.setLatch p k).sp = s.sp := rfl
@[simp] theorem State.setLatch_dt (p : Bool) (k : Reg) : (s.setLatch p k).dt = s.dt := rfl
@[simp] theorem State.setLatch_st (p : Bool) (k : Reg) : (s.setLatch p k).st = s.st := rfl
@[simp] theorem State.setLatch_key (p : Bool) (k : Reg) : (s.setLatch p k).key = s.key := rfl
@[simp] theorem State.setLatch_kwPressed (p : Bool) (k : Reg) : (s.setLatch p k).kwPressed = p := rfl
@[simp] theorem State.setLatch_kwKey (p : Bool) (k : Reg) : (s.setLatch p k).kwKey = k := rfl
@[simp] theorem State.setLatch_fb (p : Bool) (k : Reg) : (s.setLatch p k).fb = s.fb := rfl
@[simp] theorem State.setLatch_run (p : Bool) (k : Reg) : (s.setLatch p k).run = s.run := rfl
@[simp] theorem State.setLatch_fault (p : Bool) (k : Reg) : (s.setLatch p k).fault = s.fault := rfl
@[simp] theorem State.setLatch_ports (p : Bool) (k : Reg) : (s.setLatch p k).ports = s.ports := rfl
@[simp] theorem State.setLatch_sched (p : Bool) (k : Reg) : (s.setLatch p k).sched = s.sched := rfl
@[simp] theorem State.setLatch_env (p : Bool) (k : Reg) : (s.setLatch p k).env = s.env := rfl
@[simp] theorem State.setLatch_params (p : Bool) (k : Reg) : (s.setLatch p k).params = s.params := rfl

/-! ## setFb -/

@[simp] theorem State.setFb_mem (f : FrameBuffer) : (s.setFb f).mem = s.mem := rfl
@[simp] theorem State.setFb_v (f : FrameBuffer) : (s.setFb f).v = s.v := rfl
@[simp] theorem State.setFb_index (f : FrameBuffer) : (s.setFb f).index = s.index := rfl
@[simp] theorem State.setFb_pc (f : FrameBuffer) : (s.setFb f).pc = s.pc := rfl
@[simp] theorem State.setFb_stack (f : FrameBuffer) : (s.setFb f).stack = s.stack := rfl
@[simp] theorem State.setFb_sp (f : FrameBuffer) : (s.setFb f).sp = s.sp := rfl
@[simp] theorem State.setFb_dt (f : FrameBuffer) : (s.setFb f).dt = s.dt := rfl
@[simp] theorem State.setFb_st (f : FrameBuffer) : (s.setFb f).st = s.st := rfl
@[simp] theorem State.setFb_key (f : FrameBuffer) : (s.setFb f).key = s.key := rfl
@[simp] theorem State.setFb_kwPressed (f : FrameBuffer) : (s.setFb f).kwPressed = s.kwPressed := rfl
@[simp] theorem State.setFb_kwKey (f : FrameBuffer) : (s.setFb f).kwKey = s.kwKey := rfl
@[simp] theorem State.setFb_fb (f : FrameBuffer) : (s.setFb f).fb = f := rfl
@[simp] theorem State.setFb_run (f : FrameBuffer) : (s.setFb f).run = s.run := rfl
@[simp] theorem State.setFb_fault (f : FrameBuffer) : (s.setFb f).fault = s.fault := rfl
@[simp] theorem State.setFb_ports (f : FrameBuffer) : (s.setFb f).ports = s.ports := rfl
@[simp] theorem State.setFb_sched (f : FrameBuffer) : (s.setFb f).sched = s.sched := rfl
@[simp] theorem State.setFb_env (f : FrameBuffer) : (s.setFb f).env = s.env := rfl
@[simp] theorem State.setFb_params (f : FrameBuffer) : (s.setFb f).params = s.params := rfl

/-! ## advance -/

@[simp] theorem State.advance_mem : s.advance.mem = s.mem := rfl
@[simp] theorem State.advance_v : s.advance.v = s.v := rfl
@[simp] theorem State.advance_index : s.advance.index = s.index := rfl
@[simp] theorem State.advance_pc : s.advance.pc = s.pc + 2#16 := rfl
@[simp] theorem State.advance_stack : s.advance.stack = s.stack := rfl
@[simp] theorem State.advance_sp : s.advance.sp = s.sp := rfl
@[simp] theorem State.advance_dt : s.advance.dt = s.dt := rfl
@[simp] theorem State.advance_st : s.advance.st = s.st := rfl
@[simp] theorem State.advance_key : s.advance.key = s.key := rfl
@[simp] theorem State.advance_kwPressed : s.advance.kwPressed = s.kwPressed := rfl
@[simp] theorem State.advance_kwKey : s.advance.kwKey = s.kwKey := rfl
@[simp] theorem State.advance_fb : s.advance.fb = s.fb := rfl
@[simp] theorem State.advance_run : s.advance.run = s.run := rfl
@[simp] theorem State.advance_fault : s.advance.fault = s.fault := rfl
@[simp] theorem State.advance_ports : s.advance.ports = s.ports := rfl
@[simp] theorem State.advance_sched : s.advance.sched = s.sched := rfl
@[simp] theorem State.advance_env : s.advance.env = s.env := rfl
@[simp] theorem State.advance_params : s.advance.params = s.params := rfl

/-! ## storeBytes -/

@[simp] theorem State.storeBytes_mem (a : Nat) (bs : List Byte) :
    (s.storeBytes a bs).mem =
      Memory.writeBytes s.params.fontRom s.mem a bs := rfl
@[simp] theorem State.storeBytes_v (a : Nat) (bs : List Byte) : (s.storeBytes a bs).v = s.v := rfl
@[simp] theorem State.storeBytes_index (a : Nat) (bs : List Byte) : (s.storeBytes a bs).index = s.index := rfl
@[simp] theorem State.storeBytes_pc (a : Nat) (bs : List Byte) : (s.storeBytes a bs).pc = s.pc := rfl
@[simp] theorem State.storeBytes_stack (a : Nat) (bs : List Byte) : (s.storeBytes a bs).stack = s.stack := rfl
@[simp] theorem State.storeBytes_sp (a : Nat) (bs : List Byte) : (s.storeBytes a bs).sp = s.sp := rfl
@[simp] theorem State.storeBytes_dt (a : Nat) (bs : List Byte) : (s.storeBytes a bs).dt = s.dt := rfl
@[simp] theorem State.storeBytes_st (a : Nat) (bs : List Byte) : (s.storeBytes a bs).st = s.st := rfl
@[simp] theorem State.storeBytes_key (a : Nat) (bs : List Byte) : (s.storeBytes a bs).key = s.key := rfl
@[simp] theorem State.storeBytes_kwPressed (a : Nat) (bs : List Byte) :
    (s.storeBytes a bs).kwPressed =
      s.kwPressed := rfl
@[simp] theorem State.storeBytes_kwKey (a : Nat) (bs : List Byte) : (s.storeBytes a bs).kwKey = s.kwKey := rfl
@[simp] theorem State.storeBytes_fb (a : Nat) (bs : List Byte) : (s.storeBytes a bs).fb = s.fb := rfl
@[simp] theorem State.storeBytes_run (a : Nat) (bs : List Byte) : (s.storeBytes a bs).run = s.run := rfl
@[simp] theorem State.storeBytes_fault (a : Nat) (bs : List Byte) : (s.storeBytes a bs).fault = s.fault := rfl
@[simp] theorem State.storeBytes_ports (a : Nat) (bs : List Byte) : (s.storeBytes a bs).ports = s.ports := rfl
@[simp] theorem State.storeBytes_sched (a : Nat) (bs : List Byte) : (s.storeBytes a bs).sched = s.sched := rfl
@[simp] theorem State.storeBytes_env (a : Nat) (bs : List Byte) : (s.storeBytes a bs).env = s.env := rfl
@[simp] theorem State.storeBytes_params (a : Nat) (bs : List Byte) :
    (s.storeBytes a bs).params =
      s.params := rfl

/-! ## raise -/

@[simp] theorem State.raise_mem (c : FaultCode) (w : Option Word) (a : Option Nat) :
    (s.raise c w a).mem =
      s.mem := rfl
@[simp] theorem State.raise_v (c : FaultCode) (w : Option Word) (a : Option Nat) :
    (s.raise c w a).v =
      s.v := rfl
@[simp] theorem State.raise_index (c : FaultCode) (w : Option Word) (a : Option Nat) :
    (s.raise c w a).index =
      s.index := rfl
@[simp] theorem State.raise_pc (c : FaultCode) (w : Option Word) (a : Option Nat) :
    (s.raise c w a).pc =
      s.pc := rfl
@[simp] theorem State.raise_stack (c : FaultCode) (w : Option Word) (a : Option Nat) :
    (s.raise c w a).stack =
      s.stack := rfl
@[simp] theorem State.raise_sp (c : FaultCode) (w : Option Word) (a : Option Nat) :
    (s.raise c w a).sp =
      s.sp := rfl
@[simp] theorem State.raise_dt (c : FaultCode) (w : Option Word) (a : Option Nat) :
    (s.raise c w a).dt =
      s.dt := rfl
@[simp] theorem State.raise_st (c : FaultCode) (w : Option Word) (a : Option Nat) :
    (s.raise c w a).st =
      s.st := rfl
@[simp] theorem State.raise_key (c : FaultCode) (w : Option Word) (a : Option Nat) :
    (s.raise c w a).key =
      s.key := rfl
@[simp] theorem State.raise_kwPressed (c : FaultCode) (w : Option Word) (a : Option Nat) :
    (s.raise c w a).kwPressed =
      s.kwPressed := rfl
@[simp] theorem State.raise_kwKey (c : FaultCode) (w : Option Word) (a : Option Nat) :
    (s.raise c w a).kwKey =
      s.kwKey := rfl
@[simp] theorem State.raise_fb (c : FaultCode) (w : Option Word) (a : Option Nat) :
    (s.raise c w a).fb =
      s.fb := rfl
@[simp] theorem State.raise_run (c : FaultCode) (w : Option Word) (a : Option Nat) :
    (s.raise c w a).run =
      s.run := rfl
@[simp] theorem State.raise_fault (c : FaultCode) (w : Option Word) (a : Option Nat) :
    (s.raise c w a).fault =
      some { code := c, pc := s.pc, word := w, addr := a } := rfl
@[simp] theorem State.raise_ports (c : FaultCode) (w : Option Word) (a : Option Nat) :
    (s.raise c w a).ports =
      s.ports := rfl
@[simp] theorem State.raise_sched (c : FaultCode) (w : Option Word) (a : Option Nat) :
    (s.raise c w a).sched =
      s.sched := rfl
@[simp] theorem State.raise_env (c : FaultCode) (w : Option Word) (a : Option Nat) :
    (s.raise c w a).env =
      s.env := rfl
@[simp] theorem State.raise_params (c : FaultCode) (w : Option Word) (a : Option Nat) :
    (s.raise c w a).params =
      s.params := rfl

/-! ## emitDiag -/

@[simp] theorem State.emitDiag_mem (w : Word) : (s.emitDiag w).mem = s.mem := rfl
@[simp] theorem State.emitDiag_v (w : Word) : (s.emitDiag w).v = s.v := rfl
@[simp] theorem State.emitDiag_index (w : Word) : (s.emitDiag w).index = s.index := rfl
@[simp] theorem State.emitDiag_pc (w : Word) : (s.emitDiag w).pc = s.pc := rfl
@[simp] theorem State.emitDiag_stack (w : Word) : (s.emitDiag w).stack = s.stack := rfl
@[simp] theorem State.emitDiag_sp (w : Word) : (s.emitDiag w).sp = s.sp := rfl
@[simp] theorem State.emitDiag_dt (w : Word) : (s.emitDiag w).dt = s.dt := rfl
@[simp] theorem State.emitDiag_st (w : Word) : (s.emitDiag w).st = s.st := rfl
@[simp] theorem State.emitDiag_key (w : Word) : (s.emitDiag w).key = s.key := rfl
@[simp] theorem State.emitDiag_kwPressed (w : Word) : (s.emitDiag w).kwPressed = s.kwPressed := rfl
@[simp] theorem State.emitDiag_kwKey (w : Word) : (s.emitDiag w).kwKey = s.kwKey := rfl
@[simp] theorem State.emitDiag_fb (w : Word) : (s.emitDiag w).fb = s.fb := rfl
@[simp] theorem State.emitDiag_run (w : Word) : (s.emitDiag w).run = s.run := rfl
@[simp] theorem State.emitDiag_fault (w : Word) : (s.emitDiag w).fault = s.fault := rfl
@[simp] theorem State.emitDiag_ports (w : Word) :
    (s.emitDiag w).ports =
      { s.ports with diag := { kind := .unknownOpcode, pc := s.pc, word := w } :: s.ports.diag } := rfl
@[simp] theorem State.emitDiag_sched (w : Word) : (s.emitDiag w).sched = s.sched := rfl
@[simp] theorem State.emitDiag_env (w : Word) : (s.emitDiag w).env = s.env := rfl
@[simp] theorem State.emitDiag_params (w : Word) : (s.emitDiag w).params = s.params := rfl

/-! ## tookDraw -/

@[simp] theorem State.tookDraw_mem : s.tookDraw.mem = s.mem := rfl
@[simp] theorem State.tookDraw_v : s.tookDraw.v = s.v := rfl
@[simp] theorem State.tookDraw_index : s.tookDraw.index = s.index := rfl
@[simp] theorem State.tookDraw_pc : s.tookDraw.pc = s.pc := rfl
@[simp] theorem State.tookDraw_stack : s.tookDraw.stack = s.stack := rfl
@[simp] theorem State.tookDraw_sp : s.tookDraw.sp = s.sp := rfl
@[simp] theorem State.tookDraw_dt : s.tookDraw.dt = s.dt := rfl
@[simp] theorem State.tookDraw_st : s.tookDraw.st = s.st := rfl
@[simp] theorem State.tookDraw_key : s.tookDraw.key = s.key := rfl
@[simp] theorem State.tookDraw_kwPressed : s.tookDraw.kwPressed = s.kwPressed := rfl
@[simp] theorem State.tookDraw_kwKey : s.tookDraw.kwKey = s.kwKey := rfl
@[simp] theorem State.tookDraw_fb : s.tookDraw.fb = s.fb := rfl
@[simp] theorem State.tookDraw_run : s.tookDraw.run = s.run := rfl
@[simp] theorem State.tookDraw_fault : s.tookDraw.fault = s.fault := rfl
@[simp] theorem State.tookDraw_ports : s.tookDraw.ports = s.ports := rfl
@[simp] theorem State.tookDraw_sched : s.tookDraw.sched = s.sched := rfl
@[simp] theorem State.tookDraw_env :
    s.tookDraw.env =
      { s.env with randIn := s.env.randIn.tail, draws := s.env.draws + 1 } := rfl
@[simp] theorem State.tookDraw_params : s.tookDraw.params = s.params := rfl

/-! ## tookInput -/

@[simp] theorem State.tookInput_mem : s.tookInput.mem = s.mem := rfl
@[simp] theorem State.tookInput_v : s.tookInput.v = s.v := rfl
@[simp] theorem State.tookInput_index : s.tookInput.index = s.index := rfl
@[simp] theorem State.tookInput_pc : s.tookInput.pc = s.pc := rfl
@[simp] theorem State.tookInput_stack : s.tookInput.stack = s.stack := rfl
@[simp] theorem State.tookInput_sp : s.tookInput.sp = s.sp := rfl
@[simp] theorem State.tookInput_dt : s.tookInput.dt = s.dt := rfl
@[simp] theorem State.tookInput_st : s.tookInput.st = s.st := rfl
@[simp] theorem State.tookInput_key : s.tookInput.key = s.key := rfl
@[simp] theorem State.tookInput_kwPressed : s.tookInput.kwPressed = s.kwPressed := rfl
@[simp] theorem State.tookInput_kwKey : s.tookInput.kwKey = s.kwKey := rfl
@[simp] theorem State.tookInput_fb : s.tookInput.fb = s.fb := rfl
@[simp] theorem State.tookInput_run : s.tookInput.run = s.run := rfl
@[simp] theorem State.tookInput_fault : s.tookInput.fault = s.fault := rfl
@[simp] theorem State.tookInput_ports : s.tookInput.ports = s.ports := rfl
@[simp] theorem State.tookInput_sched : s.tookInput.sched = s.sched := rfl
@[simp] theorem State.tookInput_env :
    s.tookInput.env =
      { s.env with inputs := s.env.inputs.tail, tick := s.env.tick + 1 } := rfl
@[simp] theorem State.tookInput_params : s.tookInput.params = s.params := rfl

/-! ## timerCountdown -/

@[simp] theorem State.timerCountdown_mem : s.timerCountdown.mem = s.mem := rfl
@[simp] theorem State.timerCountdown_v : s.timerCountdown.v = s.v := rfl
@[simp] theorem State.timerCountdown_index : s.timerCountdown.index = s.index := rfl
@[simp] theorem State.timerCountdown_pc : s.timerCountdown.pc = s.pc := rfl
@[simp] theorem State.timerCountdown_stack : s.timerCountdown.stack = s.stack := rfl
@[simp] theorem State.timerCountdown_sp : s.timerCountdown.sp = s.sp := rfl
@[simp] theorem State.timerCountdown_dt : s.timerCountdown.dt = countDown s.dt := rfl
@[simp] theorem State.timerCountdown_st : s.timerCountdown.st = countDown s.st := rfl
@[simp] theorem State.timerCountdown_key : s.timerCountdown.key = s.key := rfl
@[simp] theorem State.timerCountdown_kwPressed : s.timerCountdown.kwPressed = s.kwPressed := rfl
@[simp] theorem State.timerCountdown_kwKey : s.timerCountdown.kwKey = s.kwKey := rfl
@[simp] theorem State.timerCountdown_fb : s.timerCountdown.fb = s.fb := rfl
@[simp] theorem State.timerCountdown_run : s.timerCountdown.run = s.run := rfl
@[simp] theorem State.timerCountdown_fault : s.timerCountdown.fault = s.fault := rfl
@[simp] theorem State.timerCountdown_ports : s.timerCountdown.ports = s.ports := rfl
@[simp] theorem State.timerCountdown_sched : s.timerCountdown.sched = s.sched := rfl
@[simp] theorem State.timerCountdown_env : s.timerCountdown.env = s.env := rfl
@[simp] theorem State.timerCountdown_params : s.timerCountdown.params = s.params := rfl

/-! ## expose -/

@[simp] theorem State.expose_mem : s.expose.mem = s.mem := rfl
@[simp] theorem State.expose_v : s.expose.v = s.v := rfl
@[simp] theorem State.expose_index : s.expose.index = s.index := rfl
@[simp] theorem State.expose_pc : s.expose.pc = s.pc := rfl
@[simp] theorem State.expose_stack : s.expose.stack = s.stack := rfl
@[simp] theorem State.expose_sp : s.expose.sp = s.sp := rfl
@[simp] theorem State.expose_dt : s.expose.dt = s.dt := rfl
@[simp] theorem State.expose_st : s.expose.st = s.st := rfl
@[simp] theorem State.expose_key : s.expose.key = s.key := rfl
@[simp] theorem State.expose_kwPressed : s.expose.kwPressed = s.kwPressed := rfl
@[simp] theorem State.expose_kwKey : s.expose.kwKey = s.kwKey := rfl
@[simp] theorem State.expose_fb : s.expose.fb = s.fb := rfl
@[simp] theorem State.expose_run : s.expose.run = s.run := rfl
@[simp] theorem State.expose_fault : s.expose.fault = s.fault := rfl
@[simp] theorem State.expose_ports :
    s.expose.ports =
      { s.ports with fbOut := s.fb, soundGate := s.st != 0#8 } := rfl
@[simp] theorem State.expose_sched : s.expose.sched = s.sched := rfl
@[simp] theorem State.expose_env : s.expose.env = s.env := rfl
@[simp] theorem State.expose_params : s.expose.params = s.params := rfl

/-! ## skipIf -/

@[simp] theorem State.skipIf_mem (c : Bool) : (s.skipIf c).mem = s.mem := by
  cases c <;> rfl
@[simp] theorem State.skipIf_v (c : Bool) : (s.skipIf c).v = s.v := by
  cases c <;> rfl
@[simp] theorem State.skipIf_index (c : Bool) : (s.skipIf c).index = s.index := by
  cases c <;> rfl
@[simp] theorem State.skipIf_pc (c : Bool) : (s.skipIf c).pc = s.pc + (if c then 4#16 else 2#16) := by
  cases c <;> rfl
@[simp] theorem State.skipIf_stack (c : Bool) : (s.skipIf c).stack = s.stack := by
  cases c <;> rfl
@[simp] theorem State.skipIf_sp (c : Bool) : (s.skipIf c).sp = s.sp := by
  cases c <;> rfl
@[simp] theorem State.skipIf_dt (c : Bool) : (s.skipIf c).dt = s.dt := by
  cases c <;> rfl
@[simp] theorem State.skipIf_st (c : Bool) : (s.skipIf c).st = s.st := by
  cases c <;> rfl
@[simp] theorem State.skipIf_key (c : Bool) : (s.skipIf c).key = s.key := by
  cases c <;> rfl
@[simp] theorem State.skipIf_kwPressed (c : Bool) : (s.skipIf c).kwPressed = s.kwPressed := by
  cases c <;> rfl
@[simp] theorem State.skipIf_kwKey (c : Bool) : (s.skipIf c).kwKey = s.kwKey := by
  cases c <;> rfl
@[simp] theorem State.skipIf_fb (c : Bool) : (s.skipIf c).fb = s.fb := by
  cases c <;> rfl
@[simp] theorem State.skipIf_run (c : Bool) : (s.skipIf c).run = s.run := by
  cases c <;> rfl
@[simp] theorem State.skipIf_fault (c : Bool) : (s.skipIf c).fault = s.fault := by
  cases c <;> rfl
@[simp] theorem State.skipIf_ports (c : Bool) : (s.skipIf c).ports = s.ports := by
  cases c <;> rfl
@[simp] theorem State.skipIf_sched (c : Bool) : (s.skipIf c).sched = s.sched := by
  cases c <;> rfl
@[simp] theorem State.skipIf_env (c : Bool) : (s.skipIf c).env = s.env := by
  cases c <;> rfl
@[simp] theorem State.skipIf_params (c : Bool) : (s.skipIf c).params = s.params := by
  cases c <;> rfl

/-! ## writeResultAndFlag -/

@[simp] theorem State.writeResultAndFlag_mem (x : Reg) (r : Byte) (f : Bool) : (s.writeResultAndFlag x r f).mem = s.mem := by
  unfold State.writeResultAndFlag; split <;> rfl
@[simp] theorem State.writeResultAndFlag_index (x : Reg) (r : Byte) (f : Bool) : (s.writeResultAndFlag x r f).index = s.index := by
  unfold State.writeResultAndFlag; split <;> rfl
@[simp] theorem State.writeResultAndFlag_pc (x : Reg) (r : Byte) (f : Bool) : (s.writeResultAndFlag x r f).pc = s.pc := by
  unfold State.writeResultAndFlag; split <;> rfl
@[simp] theorem State.writeResultAndFlag_stack (x : Reg) (r : Byte) (f : Bool) : (s.writeResultAndFlag x r f).stack = s.stack := by
  unfold State.writeResultAndFlag; split <;> rfl
@[simp] theorem State.writeResultAndFlag_sp (x : Reg) (r : Byte) (f : Bool) : (s.writeResultAndFlag x r f).sp = s.sp := by
  unfold State.writeResultAndFlag; split <;> rfl
@[simp] theorem State.writeResultAndFlag_dt (x : Reg) (r : Byte) (f : Bool) : (s.writeResultAndFlag x r f).dt = s.dt := by
  unfold State.writeResultAndFlag; split <;> rfl
@[simp] theorem State.writeResultAndFlag_st (x : Reg) (r : Byte) (f : Bool) : (s.writeResultAndFlag x r f).st = s.st := by
  unfold State.writeResultAndFlag; split <;> rfl
@[simp] theorem State.writeResultAndFlag_key (x : Reg) (r : Byte) (f : Bool) : (s.writeResultAndFlag x r f).key = s.key := by
  unfold State.writeResultAndFlag; split <;> rfl
@[simp] theorem State.writeResultAndFlag_kwPressed (x : Reg) (r : Byte) (f : Bool) : (s.writeResultAndFlag x r f).kwPressed = s.kwPressed := by
  unfold State.writeResultAndFlag; split <;> rfl
@[simp] theorem State.writeResultAndFlag_kwKey (x : Reg) (r : Byte) (f : Bool) : (s.writeResultAndFlag x r f).kwKey = s.kwKey := by
  unfold State.writeResultAndFlag; split <;> rfl
@[simp] theorem State.writeResultAndFlag_fb (x : Reg) (r : Byte) (f : Bool) : (s.writeResultAndFlag x r f).fb = s.fb := by
  unfold State.writeResultAndFlag; split <;> rfl
@[simp] theorem State.writeResultAndFlag_run (x : Reg) (r : Byte) (f : Bool) : (s.writeResultAndFlag x r f).run = s.run := by
  unfold State.writeResultAndFlag; split <;> rfl
@[simp] theorem State.writeResultAndFlag_fault (x : Reg) (r : Byte) (f : Bool) : (s.writeResultAndFlag x r f).fault = s.fault := by
  unfold State.writeResultAndFlag; split <;> rfl
@[simp] theorem State.writeResultAndFlag_ports (x : Reg) (r : Byte) (f : Bool) : (s.writeResultAndFlag x r f).ports = s.ports := by
  unfold State.writeResultAndFlag; split <;> rfl
@[simp] theorem State.writeResultAndFlag_sched (x : Reg) (r : Byte) (f : Bool) : (s.writeResultAndFlag x r f).sched = s.sched := by
  unfold State.writeResultAndFlag; split <;> rfl
@[simp] theorem State.writeResultAndFlag_env (x : Reg) (r : Byte) (f : Bool) : (s.writeResultAndFlag x r f).env = s.env := by
  unfold State.writeResultAndFlag; split <;> rfl
@[simp] theorem State.writeResultAndFlag_params (x : Reg) (r : Byte) (f : Bool) : (s.writeResultAndFlag x r f).params = s.params := by
  unfold State.writeResultAndFlag; split <;> rfl

end Sys2Proof.Machine
end

