-- ==== Sys2Proof/Laws/Ops.lean ====
section
/-! SUPPORT. What each named operation does, said once: reads after writes, and the cases of the operations
that may raise a fault. -/

namespace Sys2Proof.Machine

variable (s : State)

/-! ## Registers -/

@[simp] theorem State.reg_setReg (x : Reg) (b : Byte) (r : Reg) :
    (s.setReg x b).reg r = if r = x then b else s.reg r := by
  simp only [State.reg, State.setReg, Fin.getElem_fin, Vector.getElem_set, Fin.ext_iff, eq_comm]

@[simp] theorem State.reg_setRegs (v : Vector Byte 16) (r : Reg) : (s.setRegs v).reg r = v[r] := rfl

/-- An update that keeps `v` keeps every register. -/
theorem State.reg_congr {s t : State} (h : t.v = s.v) (r : Reg) : t.reg r = s.reg r := by
  simp only [State.reg, h]

@[simp] theorem State.reg_advance (r : Reg) : s.advance.reg r = s.reg r := rfl
@[simp] theorem State.reg_setPc (w : Word) (r : Reg) : (s.setPc w).reg r = s.reg r := rfl
@[simp] theorem State.reg_setIndex (w : Word) (r : Reg) : (s.setIndex w).reg r = s.reg r := rfl
@[simp] theorem State.reg_setDt (b : Byte) (r : Reg) : (s.setDt b).reg r = s.reg r := rfl
@[simp] theorem State.reg_setSt (b : Byte) (r : Reg) : (s.setSt b).reg r = s.reg r := rfl
@[simp] theorem State.reg_setFb (f : FrameBuffer) (r : Reg) : (s.setFb f).reg r = s.reg r := rfl
@[simp] theorem State.reg_setLatch (p : Bool) (k r : Reg) : (s.setLatch p k).reg r = s.reg r := rfl
@[simp] theorem State.reg_emitDiag (w : Word) (r : Reg) : (s.emitDiag w).reg r = s.reg r := rfl
@[simp] theorem State.reg_tookDraw (r : Reg) : s.tookDraw.reg r = s.reg r := rfl
@[simp] theorem State.reg_storeBytes (a : Nat) (bs : List Byte) (r : Reg) :
    (s.storeBytes a bs).reg r = s.reg r := rfl
@[simp] theorem State.reg_raise (c : FaultCode) (w : Option Word) (a : Option Nat) (r : Reg) :
    (s.raise c w a).reg r = s.reg r := rfl
@[simp] theorem State.reg_skipIf (c : Bool) (r : Reg) : (s.skipIf c).reg r = s.reg r := by
  cases c <;> rfl

/-- The literal R171, both writes in the order the parameter gives. -/
theorem State.writeResultAndFlag_eq_writes (x : Reg) (result : Byte) (flag : Bool) :
    s.writeResultAndFlag x result flag =
      match s.params.flagOrder with
      | .flagLast => (s.setReg x result).setReg vf (flagByte flag)
      | .resultLast => (s.setReg vf (flagByte flag)).setReg x result := by
  unfold State.writeResultAndFlag
  by_cases hx : x = vf
  · subst hx
    cases s.params.flagOrder <;> simp [State.setReg, lastWrite]
  · have hne : x.val ≠ vf.val := fun h => hx (Fin.ext h)
    cases s.params.flagOrder
    · simp [hx]
    · simp only [hx, if_false, State.setReg]
      rw [Vector.set_comm _ _ hne]

/-- The registers after a result and a flag are written. -/
theorem State.reg_writeResultAndFlag (x : Reg) (result : Byte) (flag : Bool) (r : Reg) :
    (s.writeResultAndFlag x result flag).reg r =
      if r = vf then
        if x = vf then lastWrite s.params.flagOrder (flagByte flag) result else flagByte flag
      else if r = x then result else s.reg r := by
  unfold State.writeResultAndFlag
  by_cases hx : x = vf <;> by_cases hr : r = vf <;> simp [hx, hr]

/-! ## Memory -/

/-- A read depends on the memory and the font alone. -/
theorem State.readByte_congr {s t : State} (hm : t.mem = s.mem) (hp : t.params = s.params) (a : Nat) :
    t.readByte a = s.readByte a := by
  simp only [State.readByte, hm, hp]

/-- A fetch depends on pc, the memory and the font alone. -/
theorem State.fetch?_congr {s t : State} (hpc : t.pc = s.pc) (hm : t.mem = s.mem)
    (hp : t.params = s.params) : t.fetch? = s.fetch? := by
  simp only [State.fetch?, hpc, State.readByte_congr hm hp]

/-- A read after bytes are stored inside the space. -/
theorem State.readByte_storeBytes (hm : Memory.wf s.params.fontRom s.mem) (a : Nat) (bs : List Byte)
    (h : a + bs.length ≤ memSize) (b : Nat) :
    (s.storeBytes a bs).readByte b =
      if a ≤ b ∧ b < a + bs.length then bs.getD (b - a) 0 else s.readByte b := by
  simp only [State.readByte, State.storeBytes, Memory.read_writeBytes hm a bs h]

/-! ## Range checks (20_memory.md R73) -/

theorem firstBadAddr_eq_none {lo count : Nat} :
    firstBadAddr lo count = none ↔ count = 0 ∨ lo + count ≤ memSize := by
  unfold firstBadAddr memSize; split <;> simp <;> omega

theorem firstBadAddr_eq_some {lo count a : Nat} :
    firstBadAddr lo count = some a ↔ 0 < count ∧ memSize < lo + count ∧ a = max lo 0x1000 := by
  unfold firstBadAddr memSize; split <;> simp <;> omega

/-- A range-checked effect happens whole, or the fault is recorded and nothing else. -/
theorem State.rangeCheck_cases (i : Instr) (lo count : Nat) (ok : State) :
    ((count = 0 ∨ lo + count ≤ memSize) ∧ s.rangeCheck i lo count ok = .next ok) ∨
    (0 < count ∧ memSize < lo + count ∧
      s.rangeCheck i lo count ok =
        .next (s.raise .memRange (some (encodeWord i)) (some (max lo 0x1000)))) := by
  unfold State.rangeCheck
  cases h : firstBadAddr lo count with
  | none => exact .inl ⟨firstBadAddr_eq_none.1 h, rfl⟩
  | some a =>
    obtain ⟨h1, h2, rfl⟩ := firstBadAddr_eq_some.1 h
    exact .inr ⟨h1, h2, rfl⟩

/-! ## The call stack (10_state.md R41) -/

/-- A push writes the entry at SP and counts it, or the stack is full. -/
theorem State.push?_cases (w : Word) :
    (∃ t, s.push? w = some t ∧ s.sp.val < stackDepth ∧ t.sp.val = s.sp.val + 1 ∧
      (∀ k : Fin stackDepth, t.stack[k] = if k.val = s.sp.val then w else s.stack[k]) ∧
      t = { s with stack := t.stack, sp := t.sp }) ∨
    (s.push? w = none ∧ s.sp.val = stackDepth) := by
  unfold State.push?
  split
  · rename_i h
    refine .inl ⟨_, rfl, h, rfl, fun k => ?_, rfl⟩
    simp only [Fin.getElem_fin, Vector.getElem_set, eq_comm]
  · rename_i h
    exact .inr ⟨rfl, by have := s.sp.isLt; omega⟩

/-- A pop uncovers the entry below SP and keeps every entry, or the stack is empty. -/
theorem State.pop?_cases :
    (∃ w t, s.pop? = some (w, t) ∧ t.sp.val + 1 = s.sp.val ∧
      (∀ k : Fin stackDepth, k.val + 1 = s.sp.val → w = s.stack[k]) ∧
      t = { s with sp := t.sp }) ∨
    (s.pop? = none ∧ s.sp.val = 0) := by
  unfold State.pop?
  split
  · rename_i h
    refine .inl ⟨_, _, rfl, by simp; omega, fun k hk => ?_, rfl⟩
    simp only [Fin.getElem_fin]
    congr 1; omega
  · rename_i h
    exact .inr ⟨rfl, by omega⟩

/-! ## Operands and keys -/

theorem keyIndex?_eq_some {b : Byte} {k : Reg} : keyIndex? b = some k ↔ b.toNat = k.val := by
  unfold keyIndex?
  split
  · simp [Fin.ext_iff]
  · simp; omega

theorem keyIndex?_eq_none {b : Byte} : keyIndex? b = none ↔ 15 < b.toNat := by
  unfold keyIndex?
  split <;> simp <;> omega

theorem lowestKey?_eq_none {keys : KeyState} :
    lowestKey? keys = none ↔ ∀ k : Reg, keys.getLsbD k.val = false := by
  simp [lowestKey?]

/-- The lowest pressed key is pressed, and no lower one is. -/
theorem lowestKey?_eq_some {keys : KeyState} {k : Reg} (h : lowestKey? keys = some k) :
    keys.getLsbD k.val = true ∧ ∀ j : Reg, j < k → keys.getLsbD j.val = false := by
  unfold lowestKey? at h
  refine ⟨by simpa using List.find?_some h, fun j hj => ?_⟩
  obtain ⟨_, i, hi, rfl, hlow⟩ := List.find?_eq_some_iff_getElem.1 h
  simp only [List.getElem_finRange, Fin.lt_def, Fin.val_cast] at hj hlow ⊢
  simpa using hlow j.val hj

@[simp] theorem addrImm_toNat (nnn : Addr12) : (addrImm nnn).toNat = nnn.toNat := by
  simp [addrImm]; omega

/-! ## Fetch -/

theorem State.fetch?_eq_some {w : Word} :
    s.fetch? = some w ↔
      s.pc.toNat ≤ 0xFFE ∧ w = wordOfBytes (s.readByte s.pc.toNat) (s.readByte (s.pc.toNat + 1)) := by
  unfold State.fetch?
  split <;> simp_all [eq_comm]

theorem State.fetch?_eq_none : s.fetch? = none ↔ 0xFFE < s.pc.toNat := by
  unfold State.fetch?
  split <;> simp <;> omega

end Sys2Proof.Machine
end

