-- ==== Sys2Proof/Laws/Display.lean ====
section
/-! SUPPORT. The draw loops pixel by pixel: what a draw leaves on each pixel and when it reports a collision
(44_display.md R221 to R223). -/

namespace Sys2Proof.Machine

theorem FrameBuffer.pixel_setPixel (fb : FrameBuffer) (x y : Nat) (b : Bool) (px py : Nat) :
    (fb.setPixel x y b).pixel px py =
      if px = x ∧ py = y ∧ x < 64 ∧ y < 32 then b else fb.pixel px py := by
  unfold FrameBuffer.setPixel
  by_cases h : x < 64 ∧ y < 32
  · rw [dif_pos h]
    unfold FrameBuffer.pixel
    by_cases hp : px < 64 ∧ py < 32
    · simp only [dif_pos hp, Vector.getElem_set]
      by_cases hy : y = py
      · subst hy
        simp only [if_true, Vector.getElem_set]
        by_cases hx : x = px
        · subst hx; simp [h]
        · have : ¬ px = x := fun e => hx e.symm
          simp [hx, this]
      · have : ¬ py = y := fun e => hy e.symm
        simp [hy, this]
    · rw [dif_neg hp, dif_neg hp, if_neg (by omega)]
  · rw [dif_neg h, if_neg (by omega)]

@[simp] theorem FrameBuffer.pixel_clear (px py : Nat) : FrameBuffer.clear.pixel px py = false := by
  unfold FrameBuffer.pixel FrameBuffer.clear
  split <;> simp

/-- A pixel outside the bitmap reads as not set. -/
theorem FrameBuffer.pixel_outside (fb : FrameBuffer) {px py : Nat} (h : ¬(px < 64 ∧ py < 32)) :
    fb.pixel px py = false := by
  rw [FrameBuffer.pixel, dif_neg h]

/-- Two bitmaps with the same pixels are equal. -/
theorem FrameBuffer.ext_pixel {f g : FrameBuffer} (h : ∀ px py, f.pixel px py = g.pixel px py) : f = g := by
  refine Vector.ext fun y hy => Vector.ext fun x hx => ?_
  have := h x y
  simpa only [FrameBuffer.pixel, dif_pos (⟨hx, hy⟩ : x < 64 ∧ y < 32)] using this

/-- Whether column `px` is among the `m` columns from `c` on of a sprite row at `ox`, and its bit is set. -/
def columnBit (ox c m : Nat) (b : Byte) (px : Nat) : Bool :=
  decide (ox + c ≤ px ∧ px < ox + c + m ∧ px ≤ 63) && b.getLsbD (7 - (px - ox))

theorem columnBit_zero (ox c : Nat) (b : Byte) (px : Nat) : columnBit ox c 0 b px = false := by
  unfold columnBit
  rw [decide_eq_false (by omega), Bool.false_and]

theorem drawColumns_pixel (ox y : Nat) (b : Byte) (m : Nat) (px py : Nat) :
    ∀ (c : Nat) (fb : FrameBuffer) (hit : Bool),
      (drawColumns ox y b (List.range' c m) (fb, hit)).1.pixel px py =
        (fb.pixel px py ^^ (decide (py = y ∧ y < 32) && columnBit ox c m b px)) := by
  induction m with
  | zero => intro c fb hit; simp [drawColumns, columnBit_zero]
  | succ m ih =>
    intro c fb hit
    rw [List.range'_succ, drawColumns]
    split
    · rename_i hclip
      have : columnBit ox c (m + 1) b px = false := by simp [columnBit]; omega
      simp [this]
    · rename_i hin
      rw [ih, FrameBuffer.pixel_setPixel]
      by_cases hy : py = y ∧ y < 32
      · obtain ⟨rfl, hy⟩ := hy
        by_cases hx : px = ox + c
        · subst hx
          have h0 : columnBit ox (c + 1) m b (ox + c) = false := by simp [columnBit]
          have h1 : columnBit ox c (m + 1) b (ox + c) = b.getLsbD (7 - c) := by
            simp [columnBit, show ox + c ≤ 63 by omega]
          rw [if_pos (by omega), h0, h1]; simp [hy]
        · have : columnBit ox (c + 1) m b px = columnBit ox c (m + 1) b px := by
            simp only [columnBit]; congr 2; simp; omega
          rw [if_neg (by omega), this]
      · rw [if_neg (by omega)]; simp [hy]

theorem drawColumns_hit (ox y : Nat) (b : Byte) (m : Nat) :
    ∀ (c : Nat) (fb : FrameBuffer) (hit : Bool),
      (drawColumns ox y b (List.range' c m) (fb, hit)).2 = true ↔
        hit = true ∨ ∃ px, columnBit ox c m b px = true ∧ fb.pixel px y = true := by
  induction m with
  | zero => intro c fb hit; simp [drawColumns, columnBit_zero]
  | succ m ih =>
    intro c fb hit
    rw [List.range'_succ, drawColumns]
    split
    · rename_i hclip
      have : ∀ px, columnBit ox c (m + 1) b px = false := by intro px; simp [columnBit]; omega
      simp [this]
    · rename_i hin
      rw [ih]
      have hstep : ∀ px, columnBit ox c (m + 1) b px =
          (columnBit ox (c + 1) m b px || (decide (px = ox + c) && b.getLsbD (7 - c))) := by
        intro px
        by_cases hx : px = ox + c
        · subst hx; simp [columnBit]; omega
        · have : columnBit ox (c + 1) m b px = columnBit ox c (m + 1) b px := by
            simp only [columnBit]; congr 2; simp; omega
          simp [this, hx]
      have hother : ∀ px, columnBit ox (c + 1) m b px = true → px ≠ ox + c := by
        intro px h; simp [columnBit] at h; omega
      constructor
      · rintro (h | ⟨px, hbit, hpix⟩)
        · simp only [Bool.or_eq_true, Bool.and_eq_true] at h
          rcases h with h | ⟨h1, h2⟩
          · exact .inl h
          · exact .inr ⟨ox + c, by simp [hstep, h1], h2⟩
        · rw [FrameBuffer.pixel_setPixel, if_neg (fun hc => hother px hbit hc.1)] at hpix
          exact .inr ⟨px, by simp [hstep, hbit], hpix⟩
      · rintro (h | ⟨px, hbit, hpix⟩)
        · exact .inl (by simp [h])
        · rw [hstep, Bool.or_eq_true, Bool.and_eq_true, decide_eq_true_eq] at hbit
          rcases hbit with hbit | ⟨rfl, hbit⟩
          · refine .inr ⟨px, hbit, ?_⟩
            rwa [FrameBuffer.pixel_setPixel, if_neg (fun hc => hother px hbit hc.1)]
          · exact .inl (by simp [hbit, hpix])

/-- The sprite bit that a draw of `bytes` with origin `(ox, y)` lands on pixel `(px, py)`; false where the
sprite does not reach or is clipped (R221). -/
def rowsBit (ox y : Nat) (bytes : List Byte) (px py : Nat) : Bool :=
  decide (y ≤ py ∧ py < y + bytes.length ∧ py < 32) && columnBit ox 0 8 (bytes.getD (py - y) 0) px

theorem rowsBit_nil (ox y px py : Nat) : rowsBit ox y [] px py = false := by
  unfold rowsBit
  rw [decide_eq_false (by simp; omega), Bool.false_and]

theorem rowsBit_cons (ox y : Nat) (b : Byte) (bs : List Byte) (px py : Nat) :
    rowsBit ox y (b :: bs) px py =
      ((decide (py = y ∧ y < 32) && columnBit ox 0 8 b px) || rowsBit ox (y + 1) bs px py) := by
  unfold rowsBit
  rcases Nat.lt_trichotomy py y with h | rfl | h
  · simp [show ¬ y ≤ py by omega, show ¬ py = y by omega, show ¬ y + 1 ≤ py by omega]
  · simp
  · obtain ⟨k, hk⟩ : ∃ k, py - y = k + 1 := ⟨py - y - 1, by omega⟩
    rw [hk, List.getD_cons_succ, show py - (y + 1) = k by omega]
    simp only [List.length_cons, show ¬ py = y by omega, false_and, decide_false, Bool.false_and,
      Bool.false_or]
    congr 2; simp; omega

/-- A draw leaves each pixel XORed with the sprite bit that lands on it. -/
theorem drawRows_pixel (ox : Nat) (bytes : List Byte) (px py : Nat) :
    ∀ (y : Nat) (fb : FrameBuffer) (hit : Bool),
      (drawRows ox y bytes (fb, hit)).1.pixel px py =
        (fb.pixel px py ^^ rowsBit ox y bytes px py) := by
  induction bytes with
  | nil => intro y fb hit; simp [drawRows, rowsBit_nil]
  | cons b bs ih =>
    intro y fb hit
    rw [drawRows, ih, List.range_eq_range', drawColumns_pixel, rowsBit_cons]
    by_cases h : py = y
    · subst h
      have : rowsBit ox (py + 1) bs px py = false := by simp [rowsBit]
      simp [this]
    · simp [h]

/-- A draw reports a collision iff a sprite bit lands on a pixel that was set before the draw. -/
theorem drawRows_hit (ox : Nat) (bytes : List Byte) :
    ∀ (y : Nat) (fb : FrameBuffer) (hit : Bool),
      (drawRows ox y bytes (fb, hit)).2 = true ↔
        hit = true ∨ ∃ px py, rowsBit ox y bytes px py = true ∧ fb.pixel px py = true := by
  induction bytes with
  | nil => intro y fb hit; simp [drawRows, rowsBit_nil]
  | cons b bs ih =>
    intro y fb hit
    rw [drawRows, ih, List.range_eq_range', drawColumns_hit]
    have hpix := fun px py => drawColumns_pixel ox y b 8 px py 0 fb hit
    constructor
    · rintro ((h | ⟨px, hbit, hset⟩) | ⟨px, py, hbit, hset⟩)
      · exact .inl h
      · refine .inr ⟨px, y, ?_, hset⟩
        have hy : y < 32 := by
          by_contra hy
          rw [fb.pixel_outside (by omega)] at hset
          exact Bool.noConfusion hset
        rw [rowsBit_cons]; simp [hy, hbit]
      · have hy : ¬ py = y := by
          rintro rfl; simp [rowsBit] at hbit
        rw [hpix] at hset
        refine .inr ⟨px, py, ?_, by simpa [hy] using hset⟩
        rw [rowsBit_cons, hbit]; simp
    · rintro (h | ⟨px, py, hbit, hset⟩)
      · exact .inl (.inl h)
      · rw [rowsBit_cons, Bool.or_eq_true, Bool.and_eq_true, decide_eq_true_eq] at hbit
        rcases hbit with ⟨⟨rfl, -⟩, hbit⟩ | hbit
        · exact .inl (.inr ⟨px, hbit, hset⟩)
        · have hy : ¬ py = y := by
            rintro rfl; simp [rowsBit] at hbit
          exact .inr ⟨px, py, hbit, by rw [hpix]; simpa [hy] using hset⟩

/-- The bytes at I, as reads of memory. -/
theorem State.getD_bytesAtIndex (s : State) (count k : Nat) (h : k < count) :
    (s.bytesAtIndex count).getD k 0 = s.readByte (s.index.toNat + k) := by
  simp [State.bytesAtIndex, State.indexAddr, List.getD, h]

end Sys2Proof.Machine
end

