-- ==== Sys2Proof/Laws/Frame.lean ====
section
/-! SUPPORT. What each named update leaves alone, as OnlyChanges, and how updates compose. -/

namespace Sys2Proof.Machine

theorem Component.same_refl (c : Component) (s : State) : c.same s s := by
  cases c <;> simp [Component.same]

theorem Component.same_trans {c : Component} {s t u : State} (h : c.same s t) (k : c.same t u) :
    c.same s u := by
  cases c <;> simp_all [Component.same]

theorem OnlyChanges.refl (cs : List Component) (s : State) : OnlyChanges cs s s :=
  fun c _ => c.same_refl s

theorem OnlyChanges.mono {cs ds : List Component} {s t : State} (h : OnlyChanges cs s t)
    (hsub : ∀ c ∈ cs, c ∈ ds) : OnlyChanges ds s t :=
  fun c hc => h c fun hm => hc (hsub c hm)

/-- Two updates within the same components. -/
theorem OnlyChanges.trans {cs : List Component} {s t u : State} (h : OnlyChanges cs s t)
    (k : OnlyChanges cs t u) : OnlyChanges cs s u :=
  fun c hc => Component.same_trans (h c hc) (k c hc)

/-- Equal fields outside the listed components make a frame: the one way a frame is proved. -/
theorem onlyChanges_of_fields {cs : List Component} {s t : State}
    (mem : .mem ∈ cs ∨ (t.mem = s.mem ∧ t.params = s.params)) (regs : .regs ∈ cs ∨ t.v = s.v)
    (index : .index ∈ cs ∨ t.index = s.index) (pc : .pc ∈ cs ∨ t.pc = s.pc)
    (stack : .stack ∈ cs ∨ (t.stack = s.stack ∧ t.sp = s.sp)) (dt : .dt ∈ cs ∨ t.dt = s.dt)
    (st : .st ∈ cs ∨ t.st = s.st) (key : .key ∈ cs ∨ t.key = s.key)
    (latch : .latch ∈ cs ∨ (t.kwPressed = s.kwPressed ∧ t.kwKey = s.kwKey))
    (fb : .fb ∈ cs ∨ t.fb = s.fb) (run : .run ∈ cs ∨ t.run = s.run)
    (fault : .fault ∈ cs ∨ t.fault = s.fault) (ports : .ports ∈ cs ∨ t.ports = s.ports)
    (sched : .sched ∈ cs ∨ t.sched = s.sched) (env : .env ∈ cs ∨ t.env = s.env)
    (params : .params ∈ cs ∨ t.params = s.params) : OnlyChanges cs s t := by
  intro c hc
  cases c
  case mem =>
    obtain ⟨hm, hp⟩ := mem.resolve_left hc
    exact ⟨hm, State.readByte_congr hm hp⟩
  case regs => exact State.reg_congr (regs.resolve_left hc)
  case index => exact index.resolve_left hc
  case pc => exact pc.resolve_left hc
  case stack => exact stack.resolve_left hc
  case dt => exact dt.resolve_left hc
  case st => exact st.resolve_left hc
  case key => exact key.resolve_left hc
  case latch => exact latch.resolve_left hc
  case fb => exact fb.resolve_left hc
  case run => exact run.resolve_left hc
  case fault => exact fault.resolve_left hc
  case ports => exact ports.resolve_left hc
  case sched => exact sched.resolve_left hc
  case env => exact env.resolve_left hc
  case params => exact params.resolve_left hc

end Sys2Proof.Machine
end

