-- ==== Sys2Proof/Laws/PerInstr.lean ====
section
/-! SUPPORT. The family OwnRow: the word of an instruction selects the row of the opcode map that has the
instruction's mnemonic (30_encoding.md R107). One lemma per constructor. -/

namespace Sys2Proof.Laws

/-- Masking a word masks its nibbles. -/
theorem wordOf_and (c x y n c' x' y' n' : Nibble) :
    wordOf c x y n &&& wordOf c' x' y' n' = wordOf (c &&& c') (x &&& x') (y &&& y') (n &&& n') := by
  unfold wordOf
  rw [← BitVec.and_append, ← BitVec.and_append, ← BitVec.and_append]

theorem nibble_and_F (n : Nibble) : n &&& 15#4 = n := by revert n; decide

theorem wordOf_and_F000 (c x y n : Nibble) : wordOf c x y n &&& 0xF000#16 = wordOf c 0 0 0 := by
  rw [show 0xF000#16 = wordOf 0xF 0 0 0 from rfl, wordOf_and]; simp [nibble_and_F]

theorem wordOf_and_F00F (c x y n : Nibble) : wordOf c x y n &&& 0xF00F#16 = wordOf c 0 0 n := by
  rw [show 0xF00F#16 = wordOf 0xF 0 0 0xF from rfl, wordOf_and]; simp [nibble_and_F]

theorem wordOf_and_F0FF (c x y n : Nibble) : wordOf c x y n &&& 0xF0FF#16 = wordOf c 0 y n := by
  rw [show 0xF0FF#16 = wordOf 0xF 0 0xF 0xF from rfl, wordOf_and]; simp [nibble_and_F]

end Sys2Proof.Laws

namespace Sys2Proof.Laws.OwnRow

/-- The word of `i` selects the row of its mnemonic; only UNKNOWN has no row. -/
def Statement (i : Instr) : Prop :=
  match opcodeMap.find? fun r => r.mnemonic == i.mnemonic with
  | some r => r.selects (encodeWord i)
  | none => ∃ w, i = .unknown w

theorem cls : Statement .cls := by rfl
theorem ret : Statement .ret := by rfl
theorem jp (nnn : Addr12) : Statement (.jp nnn) := wordOf_and_F000 _ _ _ _
theorem call (nnn : Addr12) : Statement (.call nnn) := wordOf_and_F000 _ _ _ _
theorem seImm (x : Reg) (nn : Byte) : Statement (.seImm x nn) := wordOf_and_F000 _ _ _ _
theorem sneImm (x : Reg) (nn : Byte) : Statement (.sneImm x nn) := wordOf_and_F000 _ _ _ _
theorem seReg (x y : Reg) : Statement (.seReg x y) := wordOf_and_F00F _ _ _ _
theorem ldImm (x : Reg) (nn : Byte) : Statement (.ldImm x nn) := wordOf_and_F000 _ _ _ _
theorem addImm (x : Reg) (nn : Byte) : Statement (.addImm x nn) := wordOf_and_F000 _ _ _ _
theorem ldReg (x y : Reg) : Statement (.ldReg x y) := wordOf_and_F00F _ _ _ _
theorem orReg (x y : Reg) : Statement (.orReg x y) := wordOf_and_F00F _ _ _ _
theorem andReg (x y : Reg) : Statement (.andReg x y) := wordOf_and_F00F _ _ _ _
theorem xorReg (x y : Reg) : Statement (.xorReg x y) := wordOf_and_F00F _ _ _ _
theorem addReg (x y : Reg) : Statement (.addReg x y) := wordOf_and_F00F _ _ _ _
theorem sub (x y : Reg) : Statement (.sub x y) := wordOf_and_F00F _ _ _ _
theorem shr (x y : Reg) : Statement (.shr x y) := wordOf_and_F00F _ _ _ _
theorem subn (x y : Reg) : Statement (.subn x y) := wordOf_and_F00F _ _ _ _
theorem shl (x y : Reg) : Statement (.shl x y) := wordOf_and_F00F _ _ _ _
theorem sneReg (x y : Reg) : Statement (.sneReg x y) := wordOf_and_F00F _ _ _ _
theorem ldI (nnn : Addr12) : Statement (.ldI nnn) := wordOf_and_F000 _ _ _ _
theorem jpV0 (nnn : Addr12) : Statement (.jpV0 nnn) := wordOf_and_F000 _ _ _ _
theorem rnd (x : Reg) (nn : Byte) : Statement (.rnd x nn) := wordOf_and_F000 _ _ _ _
theorem drw (x y : Reg) (n : Fin 16) : Statement (.drw x y n) := wordOf_and_F000 _ _ _ _
theorem skp (x : Reg) : Statement (.skp x) := wordOf_and_F0FF _ _ _ _
theorem sknp (x : Reg) : Statement (.sknp x) := wordOf_and_F0FF _ _ _ _
theorem ldVxDt (x : Reg) : Statement (.ldVxDt x) := wordOf_and_F0FF _ _ _ _
theorem ldVxK (x : Reg) : Statement (.ldVxK x) := wordOf_and_F0FF _ _ _ _
theorem ldDtVx (x : Reg) : Statement (.ldDtVx x) := wordOf_and_F0FF _ _ _ _
theorem ldStVx (x : Reg) : Statement (.ldStVx x) := wordOf_and_F0FF _ _ _ _
theorem addIVx (x : Reg) : Statement (.addIVx x) := wordOf_and_F0FF _ _ _ _
theorem ldFVx (x : Reg) : Statement (.ldFVx x) := wordOf_and_F0FF _ _ _ _
theorem ldBVx (x : Reg) : Statement (.ldBVx x) := wordOf_and_F0FF _ _ _ _
theorem storeRegs (x : Reg) : Statement (.storeRegs x) := wordOf_and_F0FF _ _ _ _
theorem loadRegs (x : Reg) : Statement (.loadRegs x) := wordOf_and_F0FF _ _ _ _
theorem unknown (w : Word) : Statement (.unknown w) := ⟨w, rfl⟩

end Sys2Proof.Laws.OwnRow
end

