-- ==== Sys2Proof/Laws/Step.lean ====
section
/-! SUPPORT. What a step can do, said once. -/

namespace Sys2Proof.Machine

/-- A step that answers a next state is, in a core with no fault recorded, the start of a tick, the end of
one, an instruction of its batch, or the fault of a fetch out of range. -/
theorem step_cases {s t : State} (h : step s = .next t) :
    s.fault = none ∧
      ((s.sched = .idle ∧ t = s.beginTick) ∨ (s.sched = .batch 0 ∧ t = s.endTick) ∨
       ∃ n, s.sched = .batch (n + 1) ∧
        ((∃ w, s.fetch? = some w ∧ exec (decodeWord w) { s with sched := .batch n } = .next t) ∨
         (s.fetch? = none ∧ t = State.fetchFault { s with sched := .batch n }))) := by
  unfold step at h
  split at h
  · cases h
  · rename_i hf
    refine ⟨hf, ?_⟩
    split at h
    · rename_i hs
      cases h; exact .inl ⟨hs, rfl⟩
    · rename_i hs
      cases h; exact .inr (.inl ⟨hs, rfl⟩)
    · rename_i n hs
      refine .inr (.inr ⟨n, hs, ?_⟩)
      have hfetch : State.fetch? { s with sched := .batch n } = s.fetch? := rfl
      unfold State.instrStep at h
      rw [hfetch] at h
      split at h
      · exact .inl ⟨_, ‹_›, h⟩
      · cases h; exact .inr ⟨‹_›, rfl⟩

/-- An instruction step, in a core with no fault recorded and a step left in its batch. -/
theorem step_batch {s : State} {n : Nat} (hf : s.fault = none) (hs : s.sched = .batch (n + 1)) :
    step s = State.instrStep { s with sched := .batch n } := by
  unfold step; rw [hf, hs]

/-- The cases of a tick start. -/
theorem State.beginTick_cases (s : State) :
    (s.run = .halted ∧ s.beginTick = s) ∨
    (s.run = .running ∧ s.nextInput.stop = true ∧ s.beginTick = { s.tookInput with run := .halted }) ∨
    (s.run = .running ∧ s.nextInput.stop = false ∧
      s.beginTick = { s.tookInput with key := s.nextInput.keys, sched := .batch s.params.ipt }) := by
  unfold State.beginTick
  cases hr : s.run with
  | halted => exact .inl ⟨rfl, rfl⟩
  | running =>
    cases hst : s.nextInput.stop with
    | true => exact .inr (.inl ⟨rfl, rfl, by simp [hst]⟩)
    | false => exact .inr (.inr ⟨rfl, rfl, by simp [hst]⟩)

/-- The count of a timer down by one, as a natural number. -/
theorem countDown_toNat (t : Byte) : (countDown t).toNat = t.toNat - 1 := by
  unfold countDown
  split
  · rw [BitVec.toNat_sub]; simp; omega
  · omega

end Sys2Proof.Machine
end

