-- ==== Sys2Proof/Tests/Slice0.lean ====
section
/-! SUPPORT. The author's tests: the WellFormed smoke, a word written out from the spec for every constructor,
single steps on a small state with the results of spec/95_test_vectors.md (its ids in the comments), and a
witness that the hypotheses of each statement can be met. -/

namespace Sys2Proof.Tests

open Sys2Proof.Machine Sys2Proof.Claims

/-! ## Helpers -/

/-- A machine after reset with every parameter known, one instruction of a tick still to run. -/
def base (order : FlagOrder) : State :=
  { State.reset with params := { ipt := 1, flagOrder := order, fontRom := defaultFont }, sched := .batch 1 }

/-- The same with the first registers set. -/
def regs (v0 v1 : Byte) : State := ((base .flagLast).setReg 0 v0).setReg 1 v1

/-- The state after one step, if there is one. -/
def after (s : State) : Option State :=
  match step s with
  | .next t => some t
  | _ => none

/-- The state after one step that runs the word `w`. -/
def runs (w : Nat) (s : State) : Option State := after (s.withFetchWord 16 w)

/-- What a test looks at: three registers, I and pc. -/
def look (a b c : Reg) (t : State) : List Nat :=
  [(t.reg a).toNat, (t.reg b).toNat, (t.reg c).toNat, t.index.toNat, t.pc.toNat]

/-- The fault left by one step that runs the word `w`. -/
def faultAfter (w : Nat) (s : State) : Option FaultRecord := (runs w s).bind State.fault

/-- The pixels set in row `y`, as column numbers. -/
def rowOf (t : State) (y : Nat) : List Nat := (List.range 64).filter fun x => t.fb.pixel x y

/-- The bytes at `a` upward. -/
def bytesAt (t : State) (a n : Nat) : List Byte := (List.range n).map fun k => t.readByte (a + k)

/-! ## Well-formedness -/

theorem test_wf_refuses_assigned_unknown :
    (Instr.unknown 0x00E0).wellFormed = false ∧ (Instr.unknown 0x00EE).wellFormed = false ∧
    (Instr.unknown 0x1234).wellFormed = false ∧ (Instr.unknown 0x5120).wellFormed = false ∧
    (Instr.unknown 0x800E).wellFormed = false ∧ (Instr.unknown 0x9120).wellFormed = false ∧
    (Instr.unknown 0xE19E).wellFormed = false ∧ (Instr.unknown 0xF065).wellFormed = false := by decide

/-- The words of D7. -/
theorem test_wf_accepts_unassigned_unknown :
    ([0x00E1#16, 0x0123#16, 0x5121#16, 0x8008#16, 0x800F#16, 0x912F#16, 0xE09F#16, 0xE1A2#16, 0xF030#16,
      0xF075#16, 0xFFFF#16].all fun w =>
        (Instr.unknown w).wellFormed && decide (decodeWord w = .unknown w)) = true := by decide

/-! ## Decoding: a word of every row of 30_encoding.md R107, its nibbles as the pattern has them -/

theorem test_decode_control :
    decodeWord 0x00EE#16 = .ret ∧ decodeWord 0x1234#16 = .jp 0x234 ∧ decodeWord 0x2ABC#16 = .call 0xABC ∧
    decodeWord 0x3A12#16 = .seImm 10 0x12 ∧ decodeWord 0x4B34#16 = .sneImm 11 0x34 ∧
    decodeWord 0x5C30#16 = .seReg 12 3 ∧ decodeWord 0x9D40#16 = .sneReg 13 4 ∧
    decodeWord 0xB512#16 = .jpV0 0x512 := by decide

theorem test_decode_alu :
    decodeWord 0x6FAB#16 = .ldImm 15 0xAB ∧ decodeWord 0x7203#16 = .addImm 2 3 ∧
    decodeWord 0x8120#16 = .ldReg 1 2 ∧ decodeWord 0x8121#16 = .orReg 1 2 ∧ decodeWord 0x8122#16 = .andReg 1 2 ∧
    decodeWord 0x8123#16 = .xorReg 1 2 ∧ decodeWord 0x8124#16 = .addReg 1 2 ∧ decodeWord 0x8125#16 = .sub 1 2 ∧
    decodeWord 0x8126#16 = .shr 1 2 ∧ decodeWord 0x8127#16 = .subn 1 2 ∧ decodeWord 0x812E#16 = .shl 1 2 ∧
    decodeWord 0xC30F#16 = .rnd 3 0x0F := by decide

theorem test_decode_index_display :
    decodeWord 0xA2F0#16 = .ldI 0x2F0 ∧ decodeWord 0xF21E#16 = .addIVx 2 ∧ decodeWord 0xF429#16 = .ldFVx 4 ∧
    decodeWord 0xF533#16 = .ldBVx 5 ∧ decodeWord 0xF655#16 = .storeRegs 6 ∧ decodeWord 0xF765#16 = .loadRegs 7 ∧
    decodeWord 0x00E0#16 = .cls ∧ decodeWord 0xDAB1#16 = .drw 10 11 1 := by decide

theorem test_decode_keys_timers :
    decodeWord 0xE59E#16 = .skp 5 ∧ decodeWord 0xE6A1#16 = .sknp 6 ∧ decodeWord 0xF307#16 = .ldVxDt 3 ∧
    decodeWord 0xF20A#16 = .ldVxK 2 ∧ decodeWord 0xF315#16 = .ldDtVx 3 ∧ decodeWord 0xF418#16 = .ldStVx 4 ∧
    decodeWord 0xF000#16 = .unknown 0xF000 := by decide

/-- R74: the first byte is the high one; D1. -/
theorem test_decode_bytes :
    (decode [0x12, 0x34, 0x56]).toOption = some (.jp 0x234, [0x56]) ∧ decodeTableWord 16 0x1234 = some (.jp 0x234) ∧
    (decode [0x12]).toOption = none ∧ encode (.jp 0x234) = [0x12, 0x34] := by decide

/-! ## Control flow -/

/-- C1, C16, C17 (V0 is added, never V5), C18. -/
theorem test_jumps :
    (runs 0x1234 (base .flagLast)).map State.pc = some 0x234 ∧ (runs 0xB300 (regs 4 0)).map State.pc = some 0x304 ∧
    (runs 0xB512 ((regs 1 0).setReg 5 0x10)).map State.pc = some 0x513 ∧
    (runs 0xBFFF (regs 0xFF 0)).map State.pc = some 0x10FE := by decide

/-- C4, C6. -/
theorem test_call :
    (runs 0x2206 (base .flagLast)).map (fun t => (t.stack[0], t.sp, t.pc)) = some (0x202, 1, 0x206) ∧
    (runs 0x2400 ((base .flagLast).setPc 0xFFE)).map (fun t => (t.stack[0], t.sp, t.pc)) =
      some (0x1000, 1, 0x400) := by decide

/-- C5. -/
theorem test_call_overflow :
    (runs 0x2400 { base .flagLast with pc := 0x300, sp := 24 }).map (fun t => (t.fault, t.sp, t.pc)) =
      some (some { code := .stackOverflow, pc := 0x300, word := some 0x2400, addr := none }, 24, 0x300) := by decide

/-- C7, C8. -/
theorem test_ret :
    (runs 0x00EE { base .flagLast with pc := 0x206, sp := 1, stack := (base .flagLast).stack.set 0 0x202 }).map
      (fun t => (t.sp, t.pc)) = some (0, 0x202) ∧
    faultAfter 0x00EE (base .flagLast) =
      some { code := .stackUnderflow, pc := 0x200, word := some 0x00EE, addr := none } := by decide

/-- C9, C10. -/
theorem test_skips_immediate :
    let s := (base .flagLast).setReg 3 0x12
    (runs 0x3312 s).map State.pc = some 0x204 ∧ (runs 0x3313 s).map State.pc = some 0x202 ∧
    (runs 0x4312 s).map State.pc = some 0x202 ∧ (runs 0x4313 s).map State.pc = some 0x204 := by decide

/-- S7, C12, C13, C14. -/
theorem test_skips_register :
    let s := ((base .flagLast).setReg 1 7).setReg 2 8
    (runs 0x5120 s).map State.pc = some 0x202 ∧ (runs 0x9120 s).map State.pc = some 0x204 ∧
    (runs 0x5110 s).map State.pc = some 0x204 ∧ (runs 0x9110 s).map State.pc = some 0x202 := by decide

/-- D9, D6. -/
theorem test_unknown :
    (runs 0x5121 { base .flagLast with pc := 0x300, index := 0x123, sp := 2 }).map
      (fun t => (t.ports.diag, t.pc, t.index, t.sp, t.fault)) =
      some ([{ kind := .unknownOpcode, pc := 0x300, word := 0x5121 }], 0x302, 0x123, 2, none) := by decide

/-! ## ALU -/

/-- A1, A2, A3, A4. -/
theorem test_immediates :
    (runs 0x6005 (base .flagLast)).map (State.reg · 0) = some 0x05 ∧
    (runs 0x6FAB (base .flagLast)).map (State.reg · 15) = some 0xAB ∧
    (runs 0x7203 (((base .flagLast).setReg 2 0xFE).setReg 15 0x55)).map (look 2 15 0) =
      some [0x01, 0x55, 0, 0, 0x202] ∧
    (runs 0x7F01 ((base .flagLast).setReg 15 0xFF)).map (State.reg · 15) = some 0 := by decide

/-- A5, A6, A7, A8. -/
theorem test_logic :
    (runs 0x8010 (regs 0 0x33)).map (State.reg · 0) = some 0x33 ∧
    (runs 0x8011 ((regs 0x0F 0xF0).setReg 15 1)).map (look 0 15 1) = some [0xFF, 1, 0xF0, 0, 0x202] ∧
    (runs 0x8012 (regs 0x3C 0x0F)).map (State.reg · 0) = some 0x0C ∧
    (runs 0x8013 (regs 0x3C 0x0F)).map (State.reg · 0) = some 0x33 ∧
    (runs 0x8003 (regs 0x5A 0)).map (State.reg · 0) = some 0 := by decide

/-- S1, A10, A11. -/
theorem test_add :
    (runs 0x8014 (regs 5 10)).map (look 0 15 1) = some [15, 0, 10, 0, 0x202] ∧
    (runs 0x8014 (regs 0xFF 0x01)).map (look 0 15 1) = some [0, 1, 1, 0, 0x202] ∧
    (runs 0x8004 (regs 0x80 0)).map (look 0 15 1) = some [0, 1, 0, 0, 0x202] ∧
    (runs 0x80F4 ((regs 1 0).setReg 15 1)).map (look 0 15 1) = some [2, 0, 0, 0, 0x202] := by decide

/-- A12, A13, A18, A23, A27, A31: result and flag both go to VF. -/
theorem test_flag_order :
    let vfAfter (order : FlagOrder) (w : Nat) (f v1 : Byte) :=
      (runs w (((base order).setReg 15 f).setReg 1 v1)).map (State.reg · 15)
    vfAfter .flagLast 0x8F14 0xFF 1 = some 1 ∧ vfAfter .resultLast 0x8F14 0xFF 1 = some 0 ∧
    vfAfter .flagLast 0x8F14 0x10 1 = some 0 ∧ vfAfter .resultLast 0x8F14 0x10 1 = some 0x11 ∧
    vfAfter .flagLast 0x8F15 5 3 = some 1 ∧ vfAfter .resultLast 0x8F15 5 3 = some 2 ∧
    vfAfter .flagLast 0x8F16 0 4 = some 0 ∧ vfAfter .resultLast 0x8F16 0 4 = some 2 ∧
    vfAfter .flagLast 0x8F17 3 10 = some 1 ∧ vfAfter .resultLast 0x8F17 3 10 = some 7 ∧
    vfAfter .flagLast 0x8F1E 0 0x81 = some 1 ∧ vfAfter .resultLast 0x8F1E 0 0x81 = some 2 := by decide

/-- S2, A14 (strict), A24, A25, A26. -/
theorem test_subtractions :
    (runs 0x8015 (regs 10 3)).map (look 0 15 1) = some [7, 1, 3, 0, 0x202] ∧
    (runs 0x8015 (regs 3 10)).map (look 0 15 1) = some [0xF9, 0, 10, 0, 0x202] ∧
    (runs 0x8015 (regs 4 4)).map (look 0 15 1) = some [0, 0, 4, 0, 0x202] ∧
    (runs 0x8017 (regs 3 10)).map (look 0 15 1) = some [7, 1, 10, 0, 0x202] ∧
    (runs 0x8017 (regs 1 0)).map (look 0 15 1) = some [0xFF, 0, 0, 0, 0x202] ∧
    (runs 0x8017 (regs 9 9)).map (look 0 15 1) = some [0, 0, 9, 0, 0x202] := by decide

/-- A19 (the old V0 is not read), A20, A22, A28, A29, A30. -/
theorem test_shifts :
    (runs 0x8016 (regs 0xFF 0x80)).map (look 0 15 1) = some [0x40, 0, 0x80, 0, 0x202] ∧
    (runs 0x8016 (regs 0 1)).map (look 0 15 1) = some [0, 1, 1, 0, 0x202] ∧
    (runs 0x80F6 ((regs 0 0).setReg 15 1)).map (look 0 15 1) = some [0, 1, 0, 0, 0x202] ∧
    (runs 0x801E (regs 0 0x80)).map (look 0 15 1) = some [0, 1, 0x80, 0, 0x202] ∧
    (runs 0x801E (regs 0 0xFF)).map (look 0 15 1) = some [0xFE, 1, 0xFF, 0, 0x202] ∧
    (runs 0x800E (regs 0xC0 0)).map (look 0 15 1) = some [0x80, 1, 0, 0, 0x202] := by decide

/-- A32, A33. -/
theorem test_random :
    let s := { base .flagLast with env := { inputs := [], tick := 0, randIn := [0xA7, 0x11], draws := 0 } }
    (runs 0xC30F s).map (fun t => (t.reg 3, t.env.randIn)) = some (0x07, [0x11]) ∧
    (runs 0xC300 s).map (fun t => (t.reg 3, t.env.randIn)) = some (0, [0x11]) := by decide

/-! ## Index register and memory -/

/-- M1, M2, M3, M4. -/
theorem test_index :
    (runs 0xA2F0 (base .flagLast)).map State.index = some 0x2F0 ∧
    (runs 0xF21E (((base .flagLast).setIndex 0x300).setReg 2 0x10)).map State.index = some 0x310 ∧
    (runs 0xF01E (((regs 1 0).setIndex 0xFFF).setReg 15 0x55)).map (look 0 15 1) =
      some [1, 0x55, 0, 0x1000, 0x202] ∧
    (runs 0xF01E ((regs 1 0).setIndex 0xFFFF)).map State.index = some 0 := by decide

/-- M5, M6. -/
theorem test_font_char :
    (runs 0xF429 ((base .flagLast).setReg 4 0x0A)).map State.index = some 0x032 ∧
    (runs 0xF429 ((base .flagLast).setReg 4 0xFF)).map State.index = some 0x4FB := by decide

/-- M7, M9, M11. -/
theorem test_bcd :
    (runs 0xF033 ((regs 156 0).setIndex 0x300)).map (fun t => (bytesAt t 0x2FF 5, t.index)) =
      some ([0, 1, 5, 6, 0], 0x300) ∧
    (runs 0xF033 ((regs 42 0).setIndex 0xFFD)).map (bytesAt · 0xFFD 3) = some [0, 4, 2] ∧
    faultAfter 0xF033 ((regs 42 0).setIndex 0x1200) =
      some { code := .memRange, pc := 0x200, word := some 0xF033, addr := some 0x1200 } := by decide

/-- M10. -/
theorem test_bcd_fault_writes_nothing :
    (runs 0xF033 ((regs 42 0).setIndex 0xFFE)).map (fun t => (t.fault, t.pc, bytesAt t 0xFFE 2)) =
      some (some { code := .memRange, pc := 0x200, word := some 0xF033, addr := some 0x1000 }, 0x200,
        [0, 0]) := by decide

/-- M12, M14. -/
theorem test_block_store :
    (runs 0xF255 (((regs 1 2).setReg 2 3).setIndex 0x400)).map (fun t => (bytesAt t 0x400 4, t.index)) =
      some ([1, 2, 3, 0], 0x400) ∧
    (runs 0xFF55 ((regs 1 2).setIndex 0xFF1)).map (fun t => (t.fault, bytesAt t 0xFF1 2)) =
      some (some { code := .memRange, pc := 0x200, word := some 0xFF55, addr := some 0x1000 }, [0, 0]) := by decide

/-- M15, M16, M17. -/
theorem test_block_load :
    (runs 0xF265 (((base .flagLast).storeBytes 0x400 [1, 2, 3, 4]).setReg 3 0x77 |>.setIndex 0x400)).map
      (fun t => (t.reg 0, t.reg 1, t.reg 2, t.reg 3, t.index)) = some (1, 2, 3, 0x77, 0x400) ∧
    (runs 0xF065 (base .flagLast)).map (State.reg · 0) = some 0xF0 ∧
    faultAfter 0xF065 ((base .flagLast).setIndex 0x1000) =
      some { code := .memRange, pc := 0x200, word := some 0xF065, addr := some 0x1000 } := by decide

/-! ## Display -/

/-- P1. -/
theorem test_cls :
    (runs 0x00E0 (((base .flagLast).setFb ((base .flagLast).fb.setPixel 5 6 true)).setReg 15 0x55)).map
      (fun t => (t.fb, t.reg 15, t.pc)) = some (FrameBuffer.clear, 0x55, 0x202) := by decide

/-- S4, first draw: the 14 pixels of glyph 0. -/
theorem test_draw_glyph :
    (runs 0xD015 (base .flagLast)).map (fun t => (t.reg 15, (List.range 6).map (rowOf t))) =
      some (0, [[0, 1, 2, 3], [0, 3], [0, 3], [0, 3], [0, 1, 2, 3], []]) := by decide

/-- S5, P12: clipped at column 63; the collision. -/
theorem test_draw_clips :
    let s := ((regs 60 0).storeBytes 0x300 [0xFF]).setIndex 0x300
    (runs 0xD011 s).map (fun t => (rowOf t 0, t.reg 15)) = some ([60, 61, 62, 63], 0) ∧
    (runs 0xD011 (s.setFb (s.fb.setPixel 60 0 true))).map (fun t => (rowOf t 0, t.reg 15)) =
      some ([61, 62, 63], 1) := by decide

/-- P4 (origin wraps), P5 (clipped rows are not read), P6, P7. -/
theorem test_draw_rows :
    (runs 0xD011 (((regs 70 33).storeBytes 0x300 [0x80]).setIndex 0x300)).map
      (fun t => (rowOf t 1, t.reg 15)) = some ([6], 0) ∧
    (runs 0xD015 (((regs 0 30).storeBytes 0xFFE [0xFF, 0xFF]).setIndex 0xFFE)).map
      (fun t => (rowOf t 30, rowOf t 31, t.fault)) =
      some ([0, 1, 2, 3, 4, 5, 6, 7], [0, 1, 2, 3, 4, 5, 6, 7], none) ∧
    faultAfter 0xD012 ((regs 0 0).setIndex 0xFFF) =
      some { code := .memRange, pc := 0x200, word := some 0xD012, addr := some 0x1000 } ∧
    (runs 0xD010 (((regs 0 0).setReg 15 1).setIndex 0x2000)).map (fun t => (t.reg 15, t.fault)) =
      some (0, none) := by decide

/-! ## Keys and timers -/

/-- K1, K2. -/
theorem test_key_skips :
    let s := { (base .flagLast).setReg 5 0x0A with key := 0x0400 }
    (runs 0xE59E s).map State.pc = some 0x204 ∧ (runs 0xE5A1 s).map State.pc = some 0x202 ∧
    (runs 0xE59E { s with key := 0 }).map State.pc = some 0x202 ∧
    (runs 0xE5A1 { s with key := 0 }).map State.pc = some 0x204 := by decide

/-- K3, K4. -/
theorem test_key_range :
    faultAfter 0xE59E ((base .flagLast).setReg 5 0x10) =
      some { code := .keyRange, pc := 0x200, word := some 0xE59E, addr := some 0x10 } ∧
    faultAfter 0xE5A1 ((base .flagLast).setReg 5 0xFF) =
      some { code := .keyRange, pc := 0x200, word := some 0xE5A1, addr := some 0xFF } := by decide

/-- K5, K6, K7. -/
theorem test_timers :
    (runs 0xF307 ((base .flagLast).setDt 0x3C)).map (State.reg · 3) = some 0x3C ∧
    (runs 0xF315 ((base .flagLast).setReg 3 0x3C)).map State.dt = some 0x3C ∧
    (runs 0xF318 ((base .flagLast).setReg 3 5)).map State.st = some 5 := by decide

/-- K9, K10: no key, the lowest of two latched, held, released. -/
theorem test_key_wait :
    let s := base .flagLast
    (runs 0xF20A s).map (fun t => (t.kwPressed, t.pc)) = some (false, 0x200) ∧
    (runs 0xF20A { s with key := 0x0208 }).map (fun t => (t.kwPressed, t.kwKey, t.pc)) = some (true, 3, 0x200) ∧
    (runs 0xF20A { s with key := 0x0080, kwPressed := true, kwKey := 7 }).map (fun t => (t.kwPressed, t.pc)) =
      some (true, 0x200) ∧
    (runs 0xF20A { s with key := 0x0200, kwPressed := true, kwKey := 3 }).map
      (fun t => (t.reg 2, t.kwPressed, t.pc)) = some (3, false, 0x202) := by decide

/-! ## Fetch, tick, reset -/

/-- D2, D3. -/
theorem test_fetch :
    (runs 0x6123 ((base .flagLast).setPc 0x201)).map (fun t => (t.reg 1, t.pc)) = some (0x23, 0x203) ∧
    (runs 0x6007 ((base .flagLast).setPc 0xFFE)).map (fun t => (t.reg 0, t.pc)) = some (7, 0x1000) := by decide

/-- D4, D5. -/
theorem test_fetch_fault :
    ((after ((base .flagLast).setPc 0x1000)).bind State.fault,
      (after ((base .flagLast).setPc 0xFFF)).bind State.fault) =
    (some { code := .fetchRange, pc := 0x1000, word := none, addr := some 0x1000 },
      some { code := .fetchRange, pc := 0xFFF, word := none, addr := some 0x1000 }) := by decide

/-- S10, T8: the end of a tick counts down and does not underflow; the gate is sampled after (K8). -/
theorem test_tick_end :
    let s := { base .flagLast with sched := .batch 0 }
    (after (s.setDt 3)).map (fun t => (t.dt, t.st)) = some (2, 0) ∧
    (after (s.setDt 0)).map (fun t => (t.dt, t.st)) = some (0, 0) ∧
    (after (s.setSt 1)).map (fun t => (t.st, t.ports.soundGate)) = some (0, false) ∧
    (after (s.setSt 2)).map (fun t => (t.st, t.ports.soundGate)) = some (1, true) := by decide

/-- T6, R296: a stop halts, a halted core does not move. -/
theorem test_stop :
    let s := { base .flagLast with
      sched := .idle, env := { inputs := [⟨0x8000, true⟩], tick := 0, randIn := [], draws := 0 } }
    (after s).map (fun t => (t.run, t.key)) = some (.halted, 0) ∧
    after { s with run := .halted } = some { s with run := .halted } := by decide

/-- R290: a tick start polls the keys. -/
theorem test_tick_start :
    (after { base .flagLast with
      sched := .idle, env := { inputs := [⟨0x8001, false⟩], tick := 0, randIn := [], draws := 0 } }).map
      (fun t => (t.key, t.sched, t.run)) = some (0x8001, .batch 1, .running) := by decide

/-- T9: the font and the zeros around it, pc and the registers. -/
theorem test_reset :
    bytesAt State.reset 0 6 = [0xF0, 0x90, 0x90, 0x90, 0xF0, 0x20] ∧ bytesAt State.reset 0x4B 6 =
      [0xF0, 0x80, 0xF0, 0x80, 0x80, 0] ∧ State.reset.readByte 0x200 = 0 ∧ State.reset.pc = 0x200 ∧
    State.reset.v = Vector.replicate 16 0 ∧ State.reset.fault = none ∧ State.reset.run = .running := by decide

/-- The image of S9, loaded. -/
theorem test_boot :
    ((State.boot (base .flagLast).params State.reset.env [0x22, 0x06, 0, 0, 0, 0, 0, 0xEE]).toOption.map
      fun s => (bytesAt s 0x1FF 9, s.readByte 0)) = some ([0, 0x22, 0x06, 0, 0, 0, 0, 0, 0xEE], 0xF0) := by decide

/-! ## Witnesses: the hypotheses of each statement can be met, clause by clause at the ends of its range -/

/-- What a witness says of an instruction: exec answers a next state. -/
def completes (i : Instr) (s : State) : Bool :=
  match exec i s with
  | .next _ => true
  | _ => false

/-- Whether exec answers a next state, and whether with a fault recorded. -/
def faults (i : Instr) (s : State) : Bool :=
  match exec i s with
  | .next t => t.fault.isSome
  | _ => false

theorem completes_iff (i : Instr) (s : State) : completes i s = true ↔ ∃ t, exec i s = .next t := by
  unfold completes; split <;> simp_all

theorem exec_after {s : State} (h : (after s).isSome = true) : ∃ t, step s = .next t := by
  unfold after at h; split at h <;> simp_all

theorem witness_EveryInstructionDecodesFromItsEncoding :
    (Instr.unknown 0x5121).wellFormed = true ∧ (Instr.drw 15 0 15).wellFormed = true := by decide

/-- The clauses on X, in AddSetsCarry, SubtractionsSetStrictNoBorrow and ShiftsTakeVyAndSetTheBitShiftedOut: not F,
and F under either order. -/
theorem witness_result_and_flag :
    ∃ s t : State, (3 : Reg) ≠ 15 ∧ s.params.flagOrder = .flagLast ∧ t.params.flagOrder = .resultLast :=
  ⟨base .flagLast, base .resultLast, by decide⟩

theorem witness_RandomMasksAFreshDraw :
    ∃ s t : State, s.env.randIn = 0xA7 :: [] ∧ t.env.randIn = [] :=
  ⟨{ State.reset with env := { State.reset.env with randIn := [0xA7] } }, State.reset, rfl, rfl⟩

/-- SP at 23 and 24. -/
theorem witness_CallPushesTheNextAddressOrOverflows :
    ∃ s t : State, s.sp.val < 24 ∧ s.sp.val = 23 ∧ t.sp.val = 24 :=
  ⟨{ State.reset with sp := 23 }, { State.reset with sp := 24 }, by decide⟩

/-- SP at 24, 1 and 0. -/
theorem witness_ReturnPopsOrUnderflows :
    ∃ s t u : State, s.sp.val = (23 : Fin 24).val + 1 ∧ t.sp.val = (0 : Fin 24).val + 1 ∧ u.sp.val = 0 :=
  ⟨{ State.reset with sp := 24 }, { State.reset with sp := 1 }, State.reset, by decide⟩

theorem witness_ReturnAfterCallComesBack :
    ∃ s t : State, s.sp.val < 24 ∧ s.sp.val = 23 ∧ exec (.call 0x400) s = .next t :=
  ⟨{ State.reset with sp := 23 }, _, by decide, by decide, rfl⟩

theorem witness_SkipsAdvanceByFourOrTwo :
    ∃ s t : State, s.reg 1 = s.reg 2 ∧ t.reg 1 ≠ t.reg 2 := ⟨State.reset, regs 0 1, by decide⟩

/-- No row of the opcode map is selected by 0x5121. -/
theorem witness_UnknownWordIsReportedAndSkipped : ∀ r ∈ opcodeMap, ¬r.selects 0x5121#16 := by
  unfold OpRow.selects; decide

/-- I at 0xFFD and 0xFFE. -/
theorem witness_BcdStoresDigitsOrFaults :
    ∃ s t : State, Memory.wf s.params.fontRom s.mem ∧ s.index.toNat + 2 = 0xFFF ∧
      Memory.wf t.params.fontRom t.mem ∧ t.index.toNat + 2 = 0x1000 :=
  ⟨State.reset.setIndex 0xFFD, State.reset.setIndex 0xFFE, by decide⟩

/-- BlockStoreStoresV0ToVxOrFaults and BlockLoadLoadsV0ToVxOrFaults: X = F with I at 0xFF0 and 0xFF1. -/
theorem witness_block_transfers :
    ∃ s t : State, Memory.wf s.params.fontRom s.mem ∧ s.index.toNat + (15 : Reg).val = 0xFFF ∧
      Memory.wf t.params.fontRom t.mem ∧ t.index.toNat + (15 : Reg).val = 0x1000 :=
  ⟨State.reset.setIndex 0xFF0, State.reset.setIndex 0xFF1, by decide⟩

/-- Both instructions, storing over the next instruction, I and pc at the ends of their ranges. -/
theorem witness_StoreIsSeenByTheNextFetch :
    ∃ (s : State), Memory.wf s.params.fontRom s.mem ∧ s.pc.toNat + 3 = 0xFFF ∧
      ∀ i ∈ [Instr.ldBVx 2, Instr.storeRegs 2],
        s.index.toNat + (storedBytes i s).length = 0x1000 ∧ completes i s = true :=
  ⟨(State.reset.setIndex 0xFFD).setPc 0xFFC, by decide⟩

/-- No row drawn; the last address; one past it. -/
theorem witness_DrawXorsTheClippedSpriteOrFaults :
    ∃ s t u : State, drawnRowCount s 1 0 = 0 ∧
      (drawnRowCount t 1 5 = 2 ∧ t.index.toNat + drawnRowCount t 1 5 - 1 = 0xFFF) ∧
      (0 < drawnRowCount u 1 2 ∧ u.index.toNat + drawnRowCount u 1 2 - 1 = 0x1000) :=
  ⟨(regs 0 0).setIndex 0x2000, (regs 0 30).setIndex 0xFFE, (regs 0 0).setIndex 0xFFF, by decide⟩

/-- A pixel on which the sprite lands, set and clear, and one on which it does not (column 64 is clipped). -/
theorem witness_sprite_lands :
    SpriteLands (base .flagLast) 0 1 5 3 0 ∧ SpriteLands ((base .flagLast).setReg 0 60) 0 1 5 63 0 ∧
      ¬SpriteLands (base .flagLast) 0 1 5 4 0 := by
  refine ⟨⟨0, 3, by decide⟩, ⟨0, 3, by decide⟩, ?_⟩
  rintro ⟨r, c, hr, hc, hx, hy, -, -, hbit⟩
  have h1 : c = 4 := by
    have : (State.reg (base .flagLast) 0).toNat % 64 = 0 := by decide
    omega
  have h2 : r = 0 := by
    have : (State.reg (base .flagLast) 1).toNat % 32 = 0 := by decide
    omega
  subst h1; subst h2
  revert hbit; decide

theorem witness_DrawingTwiceRestoresTheFrameBuffer :
    ∃ s t u : State, s.fault = none ∧ exec (.drw 0 1 5) s = .next t ∧ t.fault = none ∧
      (t.reg 0).toNat % 64 = (s.reg 0).toNat % 64 ∧ (t.reg 1).toNat % 32 = (s.reg 1).toNat % 32 ∧
      exec (.drw 0 1 5) t = .next u :=
  ⟨base .flagLast, _, _, rfl, rfl, by decide, by decide, by decide, rfl⟩

/-- V[X] at 15 and 16, the key down and up. -/
theorem witness_KeySkipsReadTheSnapshotOrFault :
    ∃ s t : State, (s.reg 0).toNat = 15 ∧ s.key.getLsbD 15 = true ∧ (t.reg 0).toNat = 16 ∧
      t.key.getLsbD 15 = false :=
  ⟨{ regs 15 0 with key := 0x8000 }, regs 16 0, by decide⟩

/-- The four cases: no key, keys 15 and 3 (the lowest), held, released. -/
theorem witness_KeyWaitLatchesTheLowestKeyUntilRelease :
    ∃ a b c d : State, (a.kwPressed = false ∧ ∀ k : Reg, a.key.getLsbD k.val = false) ∧
      (b.kwPressed = false ∧ b.key.getLsbD 15 = true ∧ b.key.getLsbD (3 : Reg).val = true ∧
        ∀ j : Reg, j < 3 → b.key.getLsbD j.val = false) ∧
      (c.kwPressed = true ∧ c.key.getLsbD c.kwKey.val = true) ∧
      (d.kwPressed = true ∧ d.key.getLsbD d.kwKey.val = false) :=
  ⟨State.reset, { State.reset with key := 0x8008 }, { State.reset with key := 1, kwPressed := true },
    { State.reset with kwPressed := true }, by decide⟩

theorem witness_FaultingInstructionDoesNothingElse :
    ∃ s t : State, s.fault = none ∧ faults .ret s = true ∧ t.fault.isSome = true :=
  ⟨State.reset, State.reset.fetchFault, by decide⟩

/-- Each instruction that can fault, in a state where it does. -/
theorem witness_FaultsAreExactlyThoseOfTheTable :
    ∃ s : State, s.fault = none ∧
      (∀ i ∈ [Instr.ret, .drw 0 1 1, .ldBVx 0, .storeRegs 0, .loadRegs 15, .skp 0, .sknp 0],
        (faultOf i s).isSome = true ∧ faults i s = true) ∧ faults .cls s = false :=
  ⟨(regs 16 0).setIndex 0x1000, by decide⟩

/-- The conditions of completion, for an instruction of every constructor; also of
EveryInstructionKeepsWhatItDoesNotName. -/
theorem witness_EveryInstructionCompletesWithItsNetPc :
    ∃ s : State, ∀ i ∈ [Instr.cls, .ret, .jp 0xFFF, .call 0xFFF, .seImm 0 1, .sneImm 0 1, .seReg 0 1, .sneReg 0 1,
      .jpV0 0xFFF, .ldImm 15 1, .addImm 15 1, .ldReg 0 1, .orReg 0 1, .andReg 0 1, .xorReg 0 1, .addReg 15 1,
      .sub 15 1, .shr 15 1, .subn 15 1, .shl 15 1, .rnd 0 1] ++
      [Instr.ldI 0xFFF, .addIVx 0, .ldFVx 0, .ldBVx 0, .storeRegs 15, .loadRegs 15, .drw 0 1 15, .skp 0, .sknp 0,
        .ldVxDt 0, .ldVxK 0, .ldDtVx 0, .ldStVx 0, .unknown 0x5121],
      faultOf i s = none ∧ completes i s = true :=
  ⟨{ (regs 15 0).setIndex 0xFF0 with sp := 1 }, by decide⟩

/-- An instruction that writes VF. -/
theorem witness_OnlyFlagInstructionsAndNamedDestinationsWriteVf :
    ∃ s t : State, exec (.addReg 0 1) s = .next t ∧ t.reg 15 ≠ s.reg 15 :=
  ⟨regs 0xFF 1, _, rfl, by decide⟩

/-- At the last address that holds an instruction. -/
theorem witness_StepRunsTheDecodedInstruction :
    ∃ s : State, s.fault = none ∧ s.sched = .batch (0 + 1) ∧ s.pc.toNat = 0xFFE ∧
      (decode [s.readByte s.pc.toNat, s.readByte (s.pc.toNat + 1)]).toOption = some (.ldImm 0 7, []) :=
  ⟨((base .flagLast).storeBytes 0xFFE [0x60, 0x07]).setPc 0xFFE, by decide⟩

/-- One past it. -/
theorem witness_FetchOutOfRangeFaults :
    ∃ s : State, s.fault = none ∧ s.sched = .batch (0 + 1) ∧ s.pc.toNat > 0xFFE ∧ s.pc.toNat = 0xFFF :=
  ⟨(base .flagLast).setPc 0xFFF, by decide⟩

/-- Halted; running with a stop; running without. -/
theorem witness_TickStartPollsOrStops :
    ∃ a b c : State, (a.fault = none ∧ a.sched = .idle ∧ a.run = .halted) ∧
      (b.fault = none ∧ b.sched = .idle ∧ b.run = .running ∧ b.nextInput.stop = true) ∧
      (c.fault = none ∧ c.sched = .idle ∧ c.run = .running ∧ c.nextInput.stop = false) :=
  ⟨{ State.reset with run := .halted },
    { State.reset with env := { State.reset.env with inputs := [⟨0, true⟩] } },
    { State.reset with env := { State.reset.env with inputs := [⟨0, false⟩] } }, by decide⟩

theorem witness_TickEndCountsDownAndExposes :
    ∃ s : State, s.fault = none ∧ s.sched = .batch 0 := ⟨{ State.reset with sched := .batch 0 }, by decide⟩

theorem witness_RunStateOnlyEverHalts :
    ∃ s t : State, step s = .next t ∧ t.run ≠ s.run :=
  ⟨{ State.reset with env := { State.reset.env with inputs := [⟨0, true⟩] } }, _, rfl, by decide⟩

theorem witness_StepAlwaysProceedsWithoutAFault : State.reset.fault = none := rfl

theorem witness_KeySnapshotChangesOnlyAtTickStart :
    ∃ s t : State, step s = .next t ∧ t.key ≠ s.key :=
  ⟨{ State.reset with env := { State.reset.env with inputs := [⟨1, false⟩] } }, _, rfl, by decide⟩

theorem witness_PortContentsAreNeverRead : ∃ s t : State, step s = .next t :=
  ⟨base .flagLast, exec_after (by decide)⟩

theorem witness_ParametersNeverChange : ∃ s t : State, step s = .next t :=
  ⟨base .flagLast, exec_after (by decide)⟩

theorem witness_StepsOfOneTickAreTheSpecsTick :
    ∃ s : State, s.fault = none ∧ s.run = .running ∧ s.sched = .idle ∧ s.nextInput.stop = false :=
  ⟨{ State.reset with env := { State.reset.env with inputs := [⟨0, false⟩] } }, by decide⟩

/-- S10: three ticks with empty batches, and a fourth. -/
theorem witness_EmptyTicksCountTheTimersDown :
    ∃ s : State, s.fault = none ∧ s.run = .running ∧ s.sched = .idle ∧ s.params.ipt = 0 ∧
      4 ≤ s.env.inputs.length ∧ ∀ i ∈ s.env.inputs.take 4, i.stop = false :=
  ⟨{ State.reset with
      params := { ipt := 0, flagOrder := .flagLast, fontRom := defaultFont }
      env := { State.reset.env with inputs := List.replicate 4 ⟨0, false⟩ } }, by decide⟩

theorem witness_StepKeepsReachInvariant :
    ∃ s t : State, s.Inv ∧ step s = .next t :=
  ⟨base .flagLast, (exec_after (by decide)).elim fun t h => ⟨t, by unfold State.Inv; decide, h⟩⟩

/-- A set latch, on the FX0A at pc. -/
theorem witness_StepKeepsLatchInvariant :
    ∃ s t : State, (s.kwPressed = true ∧ s.LatchInv) ∧ step s = .next t := by
  obtain ⟨t, ht⟩ := exec_after (s := { (base .flagLast).storeBytes 0x200 [0xF2, 0x0A] with kwPressed := true })
    (by decide)
  exact ⟨_, t, ⟨rfl, fun _ => ⟨0xF20A, 2, by decide, by decide⟩⟩, ht⟩

/-- Steps that leave a record, one of each code. -/
theorem witness_StepKeepsFaultRecordTruthful :
    (after ((base .flagLast).setPc 0xFFF)).bind (fun t => t.fault.map FaultRecord.code) = some .fetchRange ∧
    (faultAfter 0xD012 ((regs 0 0).setIndex 0xFFF)).map FaultRecord.code = some .memRange ∧
    (faultAfter 0x2400 { base .flagLast with sp := 24 }).map FaultRecord.code = some .stackOverflow ∧
    (faultAfter 0x00EE (base .flagLast)).map FaultRecord.code = some .stackUnderflow ∧
    (faultAfter 0xE09E (regs 16 0)).map FaultRecord.code = some .keyRange := by decide

theorem witness_StepKeepsHaltedBetweenTicks :
    ∃ s t : State, (s.run = .halted ∧ s.RunInv) ∧ step s = .next t :=
  ⟨{ State.reset with run := .halted }, _, ⟨rfl, fun _ => rfl⟩, rfl⟩

/-- Images of length 3584 and 3585; also of EveryBootedStateMeetsTheInvariants. -/
theorem witness_BootLoadsTheImageOrReports :
    ∃ image long : List Byte, image.length = 3584 ∧ long.length = 3585 ∧
      ∃ s, State.boot State.reset.params State.reset.env image = .ok s :=
  ⟨List.replicate 3584 0, List.replicate 3585 0, List.length_replicate, List.length_replicate, _, by
    unfold State.boot; rw [List.length_replicate, if_neg (by decide)]⟩

theorem witness_PlacedWordIsRunByTheNextStep :
    ∃ s : State, s.fault = none ∧ Memory.wf s.params.fontRom s.mem ∧ s.pc.toNat = 0xFFE :=
  ⟨State.reset.setPc 0xFFE, by decide⟩

end Sys2Proof.Tests
end

section
/-! The frame of every instruction: each named update as `OnlyChanges`, and from these, once for all of
`exec`, that an instruction answers a next state in which it has recorded a fault and done nothing else
(60_exceptions.md R271) or has changed no more than its line of `mayChange` names. -/

namespace Sys2Proof.Machine

open Sys2Proof.Claims

variable {s t u : State} {cs ds : List Component}

/-! ## The frame of each named update -/

theorem State.setReg_frame (s : State) (x : Reg) (b : Byte) : OnlyChanges [.regs] s (s.setReg x b) := by
  apply onlyChanges_of_fields <;> simp

theorem State.setRegs_frame (s : State) (v : Vector Byte 16) : OnlyChanges [.regs] s (s.setRegs v) := by
  apply onlyChanges_of_fields <;> simp

theorem State.writeResultAndFlag_frame (s : State) (x : Reg) (r : Byte) (f : Bool) :
    OnlyChanges [.regs] s (s.writeResultAndFlag x r f) := by
  apply onlyChanges_of_fields <;> simp

theorem State.setIndex_frame (s : State) (w : Word) : OnlyChanges [.index] s (s.setIndex w) := by
  apply onlyChanges_of_fields <;> simp

theorem State.setPc_frame (s : State) (w : Word) : OnlyChanges [.pc] s (s.setPc w) := by
  apply onlyChanges_of_fields <;> simp

theorem State.skipIf_frame (s : State) (c : Bool) : OnlyChanges [.pc] s (s.skipIf c) := by
  apply onlyChanges_of_fields <;> simp

theorem State.setDt_frame (s : State) (b : Byte) : OnlyChanges [.dt] s (s.setDt b) := by
  apply onlyChanges_of_fields <;> simp

theorem State.setSt_frame (s : State) (b : Byte) : OnlyChanges [.st] s (s.setSt b) := by
  apply onlyChanges_of_fields <;> simp

theorem State.setLatch_frame (s : State) (p : Bool) (k : Reg) :
    OnlyChanges [.latch] s (s.setLatch p k) := by
  apply onlyChanges_of_fields <;> simp

theorem State.setFb_frame (s : State) (fb : FrameBuffer) : OnlyChanges [.fb] s (s.setFb fb) := by
  apply onlyChanges_of_fields <;> simp

theorem State.storeBytes_frame (s : State) (a : Nat) (bs : List Byte) :
    OnlyChanges [.mem] s (s.storeBytes a bs) := by
  apply onlyChanges_of_fields <;> simp

theorem State.emitDiag_frame (s : State) (w : Word) : OnlyChanges [.ports] s (s.emitDiag w) := by
  apply onlyChanges_of_fields <;> simp

theorem State.tookDraw_frame (s : State) : OnlyChanges [.env] s s.tookDraw := by
  apply onlyChanges_of_fields <;> simp

theorem State.raise_frame (s : State) (code : FaultCode) (word : Option Word) (addr : Option Nat) :
    OnlyChanges [.fault] s (s.raise code word addr) := by
  apply onlyChanges_of_fields <;> simp

theorem State.withStack_frame (s : State) (stack : Vector Word stackDepth) (sp : Fin 25) :
    OnlyChanges [.stack] s { s with stack := stack, sp := sp } := by
  apply onlyChanges_of_fields <;> simp

/-! ## Updates one after another -/

/-- A second update adds its components to those of the first. -/
theorem OnlyChanges.andThen (h : OnlyChanges cs s t) (k : OnlyChanges ds t u) :
    OnlyChanges (cs ++ ds) s u :=
  (h.mono fun _ => List.mem_append_left ds).trans (k.mono fun _ => List.mem_append_right cs)

/-- The epilogue of an instruction adds pc. -/
theorem OnlyChanges.advance (h : OnlyChanges cs s t) : OnlyChanges (cs ++ [.pc]) s t.advance :=
  h.andThen (t.setPc_frame _)

/-- A jump after an update adds pc. -/
theorem OnlyChanges.setPc (h : OnlyChanges cs s t) (w : Word) : OnlyChanges (cs ++ [.pc]) s (t.setPc w) :=
  h.andThen (t.setPc_frame w)

/-! ## Answers of a meaning -/

/-- The answer is a next state in which a fault has been raised and nothing else done, or in which at most
the listed components differ. -/
def AnswersWithin (cs : List Component) (s : State) (r : Result) : Prop :=
  ∃ t, r = .next t ∧ ((∃ code word addr, t = s.raise code word addr) ∨ OnlyChanges cs s t)

theorem AnswersWithin.next (h : OnlyChanges cs s t) : AnswersWithin cs s (.next t) := ⟨t, rfl, .inr h⟩

theorem AnswersWithin.raise (s : State) (code : FaultCode) (word : Option Word) (addr : Option Nat) :
    AnswersWithin cs s (.next (s.raise code word addr)) :=
  ⟨_, rfl, .inl ⟨code, word, addr, rfl⟩⟩

theorem AnswersWithin.rangeCheck (i : Instr) (lo count : Nat) (h : OnlyChanges cs s t) :
    AnswersWithin cs s (s.rangeCheck i lo count t) := by
  rcases s.rangeCheck_cases i lo count t with ⟨-, hok⟩ | ⟨-, -, hbad⟩
  · rw [hok]; exact .next h
  · rw [hbad]; exact .raise ..

/-! ## The meanings with more than one outcome -/

theorem execRet_answers (s : State) : AnswersWithin [.stack, .pc] s (execRet s) := by
  unfold execRet
  rcases s.pop?_cases with ⟨w, t, hpop, -, -, ht⟩ | ⟨hpop, -⟩
  · have hframe : OnlyChanges [.stack] s t := by rw [ht]; exact s.withStack_frame s.stack t.sp
    rw [hpop]; exact .next (hframe.setPc w)
  · rw [hpop]; exact .raise ..

theorem execCall_answers (nnn : Addr12) (s : State) :
    AnswersWithin [.stack, .pc] s (execCall nnn s) := by
  unfold execCall
  rcases s.push?_cases (s.pc + 2#16) with ⟨t, hpush, -, -, -, ht⟩ | ⟨hpush, -⟩
  · have hframe : OnlyChanges [.stack] s t := by rw [ht]; exact s.withStack_frame t.stack t.sp
    rw [hpush]; exact .next (hframe.setPc _)
  · rw [hpush]; exact .raise ..

theorem execSkp_answers (x : Reg) (s : State) : AnswersWithin [.pc] s (execSkp x s) := by
  unfold execSkp
  cases keyIndex? (s.reg x) with
  | some k => exact .next (s.skipIf_frame _)
  | none => exact .raise ..

theorem execSknp_answers (x : Reg) (s : State) : AnswersWithin [.pc] s (execSknp x s) := by
  unfold execSknp
  cases keyIndex? (s.reg x) with
  | some k => exact .next (s.skipIf_frame _)
  | none => exact .raise ..

/-- The cases of the wait for a key (45_keys_timers.md R255): it waits, latches a key, or completes. -/
theorem execLdVxK_cases (x : Reg) (s : State) :
    execLdVxK x s = .next s ∨ (∃ k, execLdVxK x s = .next (s.setLatch true k)) ∨
      execLdVxK x s =
        .next ((s.setReg x (BitVec.ofNat 8 s.kwKey.val)).setLatch false s.kwKey).advance := by
  unfold execLdVxK
  split
  · split
    · exact .inl rfl
    · exact .inr (.inr rfl)
  · split
    · exact .inl rfl
    · exact .inr (.inl ⟨_, rfl⟩)

theorem execLdVxK_answers (x : Reg) (s : State) :
    AnswersWithin [.regs, .latch, .pc] s (execLdVxK x s) := by
  rcases execLdVxK_cases x s with h | ⟨k, h⟩ | h <;> rw [h]
  · exact .next (.refl _ s)
  · exact .next ((s.setLatch_frame true k).mono (by simp))
  · exact .next ((s.setReg_frame x _).andThen (State.setLatch_frame _ false s.kwKey)).advance

/-! ## Every instruction -/

/-- Every instruction answers a next state, having raised a fault and done nothing else or within its line of
the table of what it may change. -/
theorem exec_answers (i : Instr) (s : State) : AnswersWithin (mayChange i) s (exec i s) := by
  cases i
  case cls => exact .next (s.setFb_frame _).advance
  case ret => exact execRet_answers s
  case jp => exact .next (s.setPc_frame _)
  case call nnn => exact execCall_answers nnn s
  case seImm | sneImm | seReg | sneReg => exact .next (s.skipIf_frame _)
  case ldImm | addImm | ldReg | orReg | andReg | xorReg | ldVxDt =>
    exact .next (s.setReg_frame _ _).advance
  case addReg | sub | shr | subn | shl => exact .next (s.writeResultAndFlag_frame _ _ _).advance
  case ldI | addIVx | ldFVx => exact .next (s.setIndex_frame _).advance
  case jpV0 => exact .next (s.setPc_frame _)
  case rnd =>
    exact .next ((s.tookDraw_frame.andThen (State.setReg_frame _ _ _)).advance.mono (by simp [mayChange]))
  case drw =>
    exact .rangeCheck _ _ _ ((s.setFb_frame _).andThen (State.setReg_frame _ _ _)).advance
  case skp x => exact execSkp_answers x s
  case sknp x => exact execSknp_answers x s
  case ldVxK x => exact execLdVxK_answers x s
  case ldDtVx => exact .next (s.setDt_frame _).advance
  case ldStVx => exact .next (s.setSt_frame _).advance
  case ldBVx | storeRegs => exact .rangeCheck _ _ _ (s.storeBytes_frame _ _).advance
  case loadRegs => exact .rangeCheck _ _ _ (s.setRegs_frame _).advance
  case unknown => exact .next (s.emitDiag_frame _).advance

/-- What an instruction that answers `t` has done. -/
theorem exec_cases {i : Instr} (h : exec i s = .next t) :
    (∃ code word addr, t = s.raise code word addr) ∨ OnlyChanges (mayChange i) s t := by
  obtain ⟨t', ht', hcases⟩ := exec_answers i s
  obtain rfl : t' = t := Host.Outcome.next.inj (ht'.symm.trans h)
  exact hcases

/-- Faulting or not, an instruction keeps every component but the fault record that its line does not name. -/
theorem exec_keeps {i : Instr} (h : exec i s = .next t) {c : Component} (hfault : c ≠ .fault)
    (hc : c ∉ mayChange i) : c.same s t := by
  rcases exec_cases h with ⟨code, word, addr, rfl⟩ | hframe
  · exact s.raise_frame code word addr c (by simpa using hfault)
  · exact hframe c hc

end Sys2Proof.Machine
end

section
/-! What a step does to the components that no instruction writes: the key snapshot, the run state, the place
in the tick and the parameters. Only the two ends of a tick reach them, but for the count of the batch. -/

namespace Sys2Proof.Machine

open Sys2Proof.Claims

variable {s t : State}

/-- The components that no instruction writes and that tell where the machine stands between instructions. -/
def controlComponents : List Component := [.key, .run, .sched, .params]

/-- No line of the table of what an instruction may change names one of them. -/
theorem not_mem_mayChange_of_control {c : Component} (hc : c ∈ controlComponents) (i : Instr) :
    c ∉ mayChange i := by
  have hdisjoint : ∀ d ∈ mayChange i, d ∉ controlComponents := by
    cases i <;> simp [mayChange, controlComponents]
  exact fun hmem => hdisjoint c hmem hc

theorem ne_fault_of_control {c : Component} (hc : c ∈ controlComponents) : c ≠ .fault := by
  rintro rfl; exact absurd hc (by decide)

theorem exec_keeps_control {i : Instr} (h : exec i s = .next t) {c : Component}
    (hc : c ∈ controlComponents) : c.same s t :=
  exec_keeps h (ne_fault_of_control hc) (not_mem_mayChange_of_control hc i)

/-- A step is one of the two ends of a tick, or it runs a step of the batch, of which it counts one and otherwise
leaves the key snapshot, the run state and the parameters. -/
theorem step_control_cases (h : step s = .next t) :
    (s.sched = .idle ∧ t = s.beginTick) ∨ (s.sched = .batch 0 ∧ t = s.endTick) ∨
      ∃ n, s.sched = .batch (n + 1) ∧
        ∀ c ∈ controlComponents, c.same { s with sched := .batch n } t := by
  obtain ⟨-, hbegin | hend | ⟨n, hsched, ⟨w, -, hexec⟩ | ⟨-, rfl⟩⟩⟩ := step_cases h
  · exact .inl hbegin
  · exact .inr (.inl hend)
  · exact .inr (.inr ⟨n, hsched, fun c hc => exec_keeps_control hexec hc⟩)
  · exact .inr (.inr ⟨n, hsched, fun c hc =>
      State.raise_frame _ _ _ _ c (by simpa using ne_fault_of_control hc)⟩)

@[simp] theorem State.beginTick_params (s : State) : s.beginTick.params = s.params := by
  rcases s.beginTick_cases with ⟨-, h⟩ | ⟨-, -, h⟩ | ⟨-, -, h⟩ <;> rw [h] <;> rfl

/-- A tick start that changes the run state takes a stop of a running core. -/
theorem State.beginTick_run_of_ne (h : s.beginTick.run ≠ s.run) :
    s.run = .running ∧ s.beginTick.run = .halted ∧ s.nextInput.stop = true := by
  rcases s.beginTick_cases with ⟨-, hb⟩ | ⟨hrun, hstop, hb⟩ | ⟨-, -, hb⟩
  · exact absurd (by rw [hb]) h
  · exact ⟨hrun, by rw [hb], hstop⟩
  · exact absurd (by rw [hb]; rfl) h

/-- A tick start that changes the key snapshot polls the keys. -/
theorem State.beginTick_key_of_ne (h : s.beginTick.key ≠ s.key) : s.beginTick.key = s.nextInput.keys := by
  rcases s.beginTick_cases with ⟨-, hb⟩ | ⟨-, -, hb⟩ | ⟨-, -, hb⟩
  · exact absurd (by rw [hb]) h
  · exact absurd (by rw [hb]; rfl) h
  · rw [hb]

end Sys2Proof.Machine

namespace Sys2Proof.Claims

open Sys2Proof.Machine

/-- Settles O40: of the ends of a tick and the instructions only a tick start writes the run state, and it only
to take a stop. -/
theorem runStateOnlyEverHalts : Obligations.RunStateOnlyEverHalts := by
  intro s t h hne
  rcases step_control_cases h with ⟨hidle, rfl⟩ | ⟨-, rfl⟩ | ⟨n, -, hkeep⟩
  · obtain ⟨hrun, hhalted, hstop⟩ := State.beginTick_run_of_ne hne
    exact ⟨hrun, hhalted, hidle, hstop⟩
  · exact absurd rfl hne
  · exact absurd (hkeep .run (by decide)) hne

/-- Settles O42: of the ends of a tick and the instructions only a tick start writes the key snapshot, and it only
to poll the keys. -/
theorem keySnapshotChangesOnlyAtTickStart : Obligations.KeySnapshotChangesOnlyAtTickStart := by
  intro s t h hne
  rcases step_control_cases h with ⟨hidle, rfl⟩ | ⟨-, rfl⟩ | ⟨n, -, hkeep⟩
  · exact ⟨hidle, State.beginTick_key_of_ne hne⟩
  · exact absurd rfl hne
  · exact absurd (hkeep .key (by decide)) hne

/-- Settles O43: neither end of a tick writes the parameters, and no instruction does. -/
theorem parametersNeverChange : Obligations.ParametersNeverChange := by
  intro s t h
  rcases step_control_cases h with ⟨-, rfl⟩ | ⟨-, rfl⟩ | ⟨n, -, hkeep⟩
  · exact s.beginTick_params
  · rfl
  · exact hkeep .params (by decide)

end Sys2Proof.Claims
end

section
/-! VF is written as a flag or as a named destination only (10_state.md R61). -/

namespace Sys2Proof.Claims

open Sys2Proof.Machine

variable {s t : State}

/-- FX65 keeps the registers above X, whether it loads or faults. -/
theorem execLoadRegs_reg_of_gt {x r : Reg} (hr : x < r) (h : execLoadRegs x s = .next t) :
    t.reg r = s.reg r := by
  unfold execLoadRegs at h
  rcases s.rangeCheck_cases (.loadRegs x) (s.indexAddr 0) (x.val + 1) _ with ⟨-, hok⟩ | ⟨-, -, hbad⟩
  · rw [hok] at h
    cases h
    simp [State.reg, not_le.2 hr]
  · rw [hbad] at h
    cases h
    exact s.reg_raise ..

/-- FX0A writes no register but VX. -/
theorem execLdVxK_reg_of_ne {x r : Reg} (hr : r ≠ x) (h : execLdVxK x s = .next t) :
    t.reg r = s.reg r := by
  rcases execLdVxK_cases x s with hw | ⟨k, hw⟩ | hw <;> rw [hw] at h <;> cases h
  · rfl
  · rfl
  · exact (State.reg_setReg s x _ r).trans (if_neg hr)

/-- An instruction that may not write VF keeps it. -/
theorem exec_keeps_vf {i : Instr} (hvf : ¬mayWriteVf i) (h : exec i s = .next t) :
    t.reg 15 = s.reg 15 := by
  have keeps_unless_regs (hregs : Component.regs ∉ mayChange i) : t.reg 15 = s.reg 15 :=
    exec_keeps h (by decide) hregs 15
  cases i
  case addReg | sub | shr | subn | shl | drw => exact absurd trivial hvf
  case ldImm x _ | addImm x _ | ldReg x _ | orReg x _ | andReg x _ | xorReg x _ | ldVxDt x | rnd x _ =>
    cases h
    exact (State.reg_setReg _ x _ 15).trans (if_neg (Ne.symm hvf))
  case ldVxK x => exact execLdVxK_reg_of_ne (Ne.symm hvf) h
  case loadRegs x => exact execLoadRegs_reg_of_gt (Fin.lt_last_iff_ne_last.2 hvf) h
  case cls | ret | jp | call | jpV0 | seImm | sneImm | seReg | sneReg | skp | sknp | ldI | addIVx | ldFVx |
      ldBVx | storeRegs | ldDtVx | ldStVx | unknown =>
    exact keeps_unless_regs (by simp [mayChange])

/-- Settles O35, by the instructions that may not write VF. -/
theorem onlyFlagInstructionsAndNamedDestinationsWriteVf :
    Obligations.OnlyFlagInstructionsAndNamedDestinationsWriteVf := by
  intro i s t h hne
  by_contra hvf
  exact hne (exec_keeps_vf hvf h)

end Sys2Proof.Claims
end

section
/-! The state after reset (10_state.md R60) meets the invariants of the steps. -/

namespace Sys2Proof.Claims

open Sys2Proof.Machine

/-- No memory cell is listed, pc is 0x200 and no return address is in use. -/
theorem reset_inv : State.reset.Inv :=
  ⟨⟨.nil, nofun⟩, by decide, fun k hk => absurd hk k.val.not_lt_zero⟩

/-- Settles O51: the latch is clear, no fault is recorded and the core is running, so the three conditional
invariants ask nothing. -/
theorem resetMeetsTheInvariants : Obligations.ResetMeetsTheInvariants :=
  ⟨reset_inv, nofun, nofun, nofun⟩

end Sys2Proof.Claims
end

section
/-! Memory (20_memory.md): an instruction with no row in the table of faults leaves the fault record alone, so its
whole change lies within its line of `mayChange`; and the fetch after FX33 or FX55 reads what was stored. -/

namespace Sys2Proof.Claims

open Sys2Proof.Machine

variable {s t : State}

/-! ## Instructions that raise no fault -/

/-- A range check that finds no byte above 0xFFF lets the effect happen (20_memory.md R73). -/
theorem rangeCheck_of_inRange {i : Instr} {lo count : Nat} {ok : State}
    (hrange : count = 0 ∨ lo + count ≤ memSize) : s.rangeCheck i lo count ok = .next ok := by
  rcases s.rangeCheck_cases i lo count ok with ⟨-, hok⟩ | ⟨hpos, hbad, -⟩
  · exact hok
  · omega

/-- The bytes that an instruction with no row in the table of faults accesses are in the space. -/
theorem dataBytes_inRange {i : Instr} (hnone : faultOf i s = none) :
    dataBytes i s = 0 ∨ s.index.toNat + dataBytes i s ≤ memSize := by
  have inRange_of_not_bad {count : Nat} (h : ¬(0 < count ∧ s.index.toNat + count - 1 > 0xFFF)) :
      count = 0 ∨ s.index.toNat + count ≤ memSize := by unfold memSize; omega
  cases i
  case drw | ldBVx | storeRegs | loadRegs =>
    exact inRange_of_not_bad fun hbad => Option.some_ne_none _ ((if_pos hbad).symm.trans hnone)
  all_goals exact .inl rfl

theorem execRet_fault (hsp : s.sp.val ≠ 0) (h : execRet s = .next t) : t.fault = s.fault := by
  unfold execRet at h
  rcases s.pop?_cases with ⟨w, u, hpop, -, -, hu⟩ | ⟨-, hempty⟩
  · rw [hpop] at h
    cases h
    rw [State.setPc_fault, hu]
  · exact absurd hempty hsp

theorem execCall_fault {nnn : Addr12} (hsp : s.sp.val ≠ stackDepth) (h : execCall nnn s = .next t) :
    t.fault = s.fault := by
  unfold execCall at h
  rcases s.push?_cases (s.pc + 2#16) with ⟨u, hpush, -, -, -, hu⟩ | ⟨-, hfull⟩
  · rw [hpush] at h
    cases h
    rw [State.setPc_fault, hu]
  · exact absurd hfull hsp

/-- A register that holds a value up to 15 is a key index. -/
theorem exists_keyIndex? {b : Byte} (h : ¬b.toNat > 15) : ∃ k, keyIndex? b = some k :=
  Option.ne_none_iff_exists'.1 fun hnone => h (keyIndex?_eq_none.1 hnone)

/-- R270: an instruction with no row in the table of faults leaves the fault record as it is. -/
theorem exec_fault_of_faultOf_eq_none {i : Instr} (hnone : faultOf i s = none)
    (h : exec i s = .next t) : t.fault = s.fault := by
  have of_rangeCheck {ok : State} (h : s.rangeCheck i s.index.toNat (dataBytes i s) ok = .next t)
      (hok : ok.fault = s.fault) : t.fault = s.fault := by
    rw [rangeCheck_of_inRange (dataBytes_inRange hnone)] at h
    cases h
    exact hok
  cases i
  case ret => exact execRet_fault (by simpa [faultOf] using hnone) h
  case call => exact execCall_fault (by simpa [faultOf] using hnone) h
  case drw | ldBVx | storeRegs | loadRegs => exact of_rangeCheck h (by simp)
  case skp x | sknp x =>
    obtain ⟨k, hk⟩ := exists_keyIndex? (b := s.reg x) (by simpa [faultOf] using hnone)
    simp only [exec, execSkp, execSknp, hk] at h
    cases h
    exact s.skipIf_fault _
  case ldVxK x =>
    rcases execLdVxK_cases x s with hw | ⟨k, hw⟩ | hw <;> cases hw.symm.trans h <;> rfl
  case seImm | sneImm | seReg | sneReg => cases h; exact s.skipIf_fault _
  case addReg | sub | shr | subn | shl => cases h; exact s.writeResultAndFlag_fault _ _ _
  all_goals cases h; rfl

/-- Settles O34. The instruction has changed no more than its line names, or has recorded a fault and done nothing
else; and since it leaves the record as it is, in the second case nothing has changed at all. -/
theorem everyInstructionKeepsWhatItDoesNotName : Obligations.EveryInstructionKeepsWhatItDoesNotName := by
  intro i s t hnone h
  rcases exec_cases h with ⟨code, word, addr, rfl⟩ | hframe
  · have hsame : s.raise code word addr = s := by
      have hfault : some _ = s.fault := exec_fault_of_faultOf_eq_none hnone h
      rw [State.raise, hfault]
    rw [hsame]
    exact .refl _ s
  · exact hframe

/-! ## The fetch after a store -/

/-- The registers V0 to VX in order are those whose index is at most X. -/
theorem regsUpTo_eq_storedBytes (s : State) (x : Reg) : s.regsUpTo x = storedBytes (.storeRegs x) s := by
  have hregs : s.v.toList = (List.finRange 16).map s.reg :=
    List.ext_getElem (by simp) fun k _ _ => by simp [State.reg]
  have hprefix : (List.finRange 16).take (x.val + 1) = (List.finRange 16).filter (· ≤ x) := by
    revert x; decide
  calc s.regsUpTo x = ((List.finRange 16).filter (· ≤ x)).map s.reg := by
        rw [State.regsUpTo, hregs, ← List.map_take, hprefix]
    _ = storedBytes (.storeRegs x) s := by
        simp [storedBytes, ← List.filterMap_eq_map, List.filterMap_filter]

/-- FX55 stores the X + 1 bytes it accesses. -/
theorem length_storedBytes_storeRegs (s : State) (x : Reg) :
    (storedBytes (.storeRegs x) s).length = x.val + 1 := by
  rw [← regsUpTo_eq_storedBytes]
  simp [State.regsUpTo]

/-- FX33 and FX55, in range, store their bytes from I upward and go to the next instruction. The bytes of FX33
are the digits of its meaning as they stand; those of FX55 are V0 to VX, listed another way. -/
theorem exec_store {x : Reg} {i : Instr} (hi : i ∈ [Instr.ldBVx x, Instr.storeRegs x])
    (hrange : s.index.toNat + (storedBytes i s).length ≤ memSize) :
    exec i s = .next (s.storeBytes s.index.toNat (storedBytes i s)).advance := by
  rcases List.mem_pair.1 hi with rfl | rfl
  · exact rangeCheck_of_inRange (.inr hrange)
  · rw [length_storedBytes_storeRegs] at hrange
    rw [← regsUpTo_eq_storedBytes]
    exact rangeCheck_of_inRange (.inr hrange)

/-- Settles O24: the next fetch reads, at pc + 2 and pc + 3, the memory after the store. -/
theorem storeIsSeenByTheNextFetch : Obligations.StoreIsSeenByTheNextFetch := by
  intro x s t hwf i hi hrange hpc h after
  cases (exec_store hi hrange).symm.trans h
  have hread (a : Nat) :
      (s.storeBytes s.index.toNat (storedBytes i s)).advance.readByte a = after a :=
    s.readByte_storeBytes hwf _ _ hrange a
  have hnext : (s.pc + 2#16).toNat = s.pc.toNat + 2 := by bv_omega
  rw [State.fetch?_eq_some, hread, hread, State.advance_pc, State.storeBytes_pc, hnext]
  exact ⟨by omega, rfl⟩

end Sys2Proof.Claims
end

section
/-! Every word is the word of its decoding, which is a well-formed instruction (30_encoding.md R106, R116). -/

namespace Sys2Proof

/-! ## The formats of a word (30_encoding.md R103) -/

@[simp] theorem wordA_addrOf (c x y n : Nibble) : wordA c (addrOf x y n) = wordOf c x y n := by
  simp [wordA]

@[simp] theorem wordXNN_idx (c x y n : Nibble) : wordXNN c x.idx (byteOf y n) = wordOf c x y n := by
  simp [wordXNN]

@[simp] theorem wordXY_idx (c x y n : Nibble) : wordXY c x.idx y.idx n = wordOf c x y n := by
  simp [wordXY]

@[simp] theorem wordX_idx (c x y n : Nibble) : wordX c x.idx y n = wordOf c x y n := by
  simp [wordX]

@[simp] theorem decodeWord_wordA (c : Nibble) (nnn : Addr12) :
    decodeWord (wordA c nnn) =
      decodeNibbles c (nnn.extractLsb' 8 4) (nnn.extractLsb' 4 4) (nnn.extractLsb' 0 4) :=
  decodeWord_wordOf ..

@[simp] theorem decodeWord_wordXNN (c : Nibble) (x : Reg) (nn : Byte) :
    decodeWord (wordXNN c x nn) =
      decodeNibbles c (nibOf x) (nn.extractLsb' 4 4) (nn.extractLsb' 0 4) :=
  decodeWord_wordOf ..

@[simp] theorem decodeWord_wordXY (c : Nibble) (x y : Reg) (n : Nibble) :
    decodeWord (wordXY c x y n) = decodeNibbles c (nibOf x) (nibOf y) n :=
  decodeWord_wordOf ..

@[simp] theorem decodeWord_wordX (c : Nibble) (x : Reg) (y n : Nibble) :
    decodeWord (wordX c x y n) = decodeNibbles c (nibOf x) y n :=
  decodeWord_wordOf ..

/-! ## The two levels of the dispatch (30_encoding.md R106) -/

/-- The arm of a row yields an instruction whose word has the nibbles, and the last arm of a category yields UNKNOWN
of a word that the table of R115 lists. -/
theorem decodeNibbles_spec (c x y n : Nibble) :
    (decodeNibbles c x y n).wellFormed = true ∧ encodeWord (decodeNibbles c x y n) = wordOf c x y n := by
  unfold decodeNibbles
  split
  case h_1 => -- category 0
    split
    case h_3 hcls hret =>
      have hne : wordOf 0x0#4 x y n ≠ 0x00E0#16 ∧ wordOf 0x0#4 x y n ≠ 0x00EE#16 := by
        simp only [ne_eq, wordOf_eq_iff]
        exact ⟨fun ⟨_, hx, hy, hn⟩ => hcls hx hy hn, fun ⟨_, hx, hy, hn⟩ => hret hx hy hn⟩
      exact ⟨by simpa [Instr.wellFormed, unassigned] using hne, rfl⟩
    all_goals exact ⟨rfl, rfl⟩
  case h_6 | h_10 => -- categories 5 and 9
    split
    · simp [Instr.wellFormed, encodeWord]
    · simp_all [Instr.wellFormed, unassigned, encodeWord]
  case h_9 => -- category 8
    split
    case h_10 =>
      have hn : List.contains [0x8#4, 0x9#4, 0xA#4, 0xB#4, 0xC#4, 0xD#4, 0xF#4] n = true := by
        revert n; decide
      simpa [Instr.wellFormed, unassigned, encodeWord] using hn
    all_goals simp [Instr.wellFormed, encodeWord]
  case h_15 => -- category E
    split
    case h_3 =>
      simp_all [Instr.wellFormed, unassigned, encodeWord, byteOf_eq_iff, imp_iff_not_or.symm]
    all_goals simp [Instr.wellFormed, encodeWord]
  case h_16 => -- category F
    obtain rfl : c = 0xF#4 := cat_eq_F fun k => by fin_cases k <;> assumption
    split
    case h_10 =>
      simp_all [Instr.wellFormed, unassigned, encodeWord, byteOf_eq_iff, imp_iff_not_or.symm]
    all_goals simp [Instr.wellFormed, encodeWord]
  all_goals simp [Instr.wellFormed, encodeWord]

theorem wellFormed_decodeWord (w : Word) : (decodeWord w).wellFormed = true :=
  (decodeNibbles_spec ..).1

@[simp] theorem encodeWord_decodeWord (w : Word) : encodeWord (decodeWord w) = w :=
  (decodeNibbles_spec ..).2.trans (wordOf_nibbles w)

end Sys2Proof
end

section
/-! The opcode map (30_encoding.md R107): all rows of a category test with one mask, so a word selects the row whose
pattern it shows under the mask of its own category, and no other (R108). -/

namespace Sys2Proof

/-! ## The mask of a category -/

theorem cat_and (w m : Word) : (w &&& m).cat = w.cat &&& m.cat := BitVec.extractLsb'_and

theorem nibN_and (w m : Word) : (w &&& m).nibN = w.nibN &&& m.nibN := BitVec.extractLsb'_and

theorem lo_and (w m : Word) : (w &&& m).lo = w.lo &&& m.lo := BitVec.extractLsb'_and

/-- The nibbles that say which row of its category a word belongs to: all, the first and the last, all but X, or
the first alone. -/
def categoryMask (c : Nibble) : Word :=
  match c.toNat with
  | 0x0 => 0xFFFF#16
  | 0x5 | 0x8 | 0x9 => 0xF00F#16
  | 0xE | 0xF => 0xF0FF#16
  | _ => 0xF000#16

theorem cat_categoryMask (c : Nibble) : (categoryMask c).cat = 0xF#4 := by
  revert c; decide

@[simp] theorem cat_and_categoryMask (w : Word) (c : Nibble) : (w &&& categoryMask c).cat = w.cat := by
  rw [cat_and, cat_categoryMask, Laws.nibble_and_F]

/-- Whether a word is unassigned shows under the mask of its category. -/
theorem unassigned_and_categoryMask (w : Word) :
    unassigned (w &&& categoryMask w.cat) = unassigned w := by
  have and_FFFF : w &&& 0xFFFF#16 = w := BitVec.and_allOnes
  have nibN_and_F00F : (w &&& 0xF00F#16).nibN = w.nibN :=
    (nibN_and ..).trans (Laws.nibble_and_F w.nibN)
  have lo_and_F0FF : (w &&& 0xF0FF#16).lo = w.lo := (lo_and ..).trans BitVec.and_allOnes
  unfold unassigned
  rw [cat_and_categoryMask]
  split
  case h_1 hc => simp only [categoryMask, hc, and_FFFF]
  case h_2 hc | h_3 hc | h_4 hc => simp only [categoryMask, hc, nibN_and_F00F]
  case h_5 hc | h_6 hc => simp only [categoryMask, hc, lo_and_F0FF]
  case h_7 => rfl

/-! ## The 34 rows -/

theorem mask_eq_categoryMask : ∀ r ∈ opcodeMap, r.mask = categoryMask r.pattern.cat := by decide

theorem unassigned_pattern : ∀ r ∈ opcodeMap, unassigned r.pattern = false := by decide

theorem nodup_patterns : (opcodeMap.map OpRow.pattern).Nodup := by decide

theorem nodup_mnemonics : (opcodeMap.map OpRow.mnemonic).Nodup := by decide

theorem mnemonic_ne_unknown : ∀ r ∈ opcodeMap, r.mnemonic ≠ "(UNKNOWN)" := by decide

/-- A row and a word that selects it have one category, so it does not matter whose mask is taken. -/
theorem selects_iff {r : OpRow} (hr : r ∈ opcodeMap) {w : Word} :
    r.selects w ↔ w &&& categoryMask w.cat = r.pattern := by
  rw [OpRow.selects, mask_eq_categoryMask r hr]
  constructor
  · intro h
    rwa [show w.cat = r.pattern.cat by rw [← h, cat_and_categoryMask]]
  · intro h
    rwa [show r.pattern.cat = w.cat by rw [← h, cat_and_categoryMask]]

theorem eq_of_selects {r q : OpRow} (hr : r ∈ opcodeMap) (hq : q ∈ opcodeMap) {w : Word}
    (hrw : r.selects w) (hqw : q.selects w) : r = q :=
  List.inj_on_of_nodup_map nodup_patterns hr hq
    (((selects_iff hr).1 hrw).symm.trans ((selects_iff hq).1 hqw))

theorem unassigned_of_selects {r : OpRow} (hr : r ∈ opcodeMap) {w : Word} (hw : r.selects w) :
    unassigned w = false := by
  rw [← unassigned_and_categoryMask, (selects_iff hr).1 hw]
  exact unassigned_pattern r hr

/-! ## The row of an instruction -/

open Laws.OwnRow in
/-- The family of lemmas OwnRow, for every constructor. -/
theorem ownRow (i : Instr) : Statement i :=
  match i with
  | .cls => cls | .ret => ret | .jp _ => jp _ | .call _ => call _
  | .seImm .. => seImm .. | .sneImm .. => sneImm .. | .seReg .. => seReg .. | .sneReg .. => sneReg ..
  | .ldImm .. => ldImm .. | .addImm .. => addImm .. | .ldReg .. => ldReg .. | .orReg .. => orReg ..
  | .andReg .. => andReg .. | .xorReg .. => xorReg .. | .addReg .. => addReg .. | .sub .. => sub ..
  | .shr .. => shr .. | .subn .. => subn .. | .shl .. => shl .. | .ldI _ => ldI _ | .jpV0 _ => jpV0 _
  | .rnd .. => rnd .. | .drw .. => drw .. | .skp _ => skp _ | .sknp _ => sknp _
  | .ldVxDt _ => ldVxDt _ | .ldVxK _ => ldVxK _ | .ldDtVx _ => ldDtVx _ | .ldStVx _ => ldStVx _
  | .addIVx _ => addIVx _ | .ldFVx _ => ldFVx _ | .ldBVx _ => ldBVx _
  | .storeRegs _ => storeRegs _ | .loadRegs _ => loadRegs _ | .unknown _ => unknown _

/-- A word selects the row of the instruction it decodes to, or it decodes to UNKNOWN. -/
theorem decodeWord_cases (w : Word) :
    (∃ r ∈ opcodeMap, r.selects w ∧ r.mnemonic = (decodeWord w).mnemonic) ∨ decodeWord w = .unknown w := by
  have hword := encodeWord_decodeWord w
  have hown := ownRow (decodeWord w)
  unfold Laws.OwnRow.Statement at hown
  split at hown
  · rename_i r hfind
    rw [hword] at hown
    exact .inl ⟨r, List.mem_of_find?_eq_some hfind, hown, by simpa using List.find?_some hfind⟩
  · obtain ⟨w', hunknown⟩ := hown
    rw [hunknown] at hword
    exact .inr (hword ▸ hunknown)

/-- UNKNOWN is left with the words of the table of R115. -/
theorem decodeWord_eq_unknown_iff {w : Word} : decodeWord w = .unknown w ↔ unassigned w = true := by
  constructor
  · intro h
    have hwf := wellFormed_decodeWord w
    rwa [h] at hwf
  · intro h
    rcases decodeWord_cases w with ⟨r, hr, hsel, -⟩ | hunknown
    · exact absurd h (Bool.eq_false_iff.1 (unassigned_of_selects hr hsel))
    · exact hunknown

theorem decodeWord_ne_unknown_of_selects {r : OpRow} (hr : r ∈ opcodeMap) {w : Word}
    (hw : r.selects w) : decodeWord w ≠ .unknown w := fun h =>
  Bool.eq_false_iff.1 (unassigned_of_selects hr hw) (decodeWord_eq_unknown_iff.1 h)

/-- Decoding inverts encoding. An instruction with a row stands for its word by the word's format; UNKNOWN, for a
word that no row has. -/
theorem decodeWord_encodeWord {i : Instr} (hwf : i.wellFormed = true) : decodeWord (encodeWord i) = i := by
  cases i
  case cls | ret => rfl
  case unknown => exact decodeWord_eq_unknown_iff.2 hwf
  all_goals simp [encodeWord, decodeNibbles]

/-- R107: the word selects the row iff its instruction is the row's. -/
theorem selects_iff_mnemonic {r : OpRow} (hr : r ∈ opcodeMap) {w : Word} :
    r.selects w ↔ (decodeWord w).mnemonic = r.mnemonic := by
  rcases decodeWord_cases w with ⟨q, hq, hsel, hq_mnemonic⟩ | hunknown
  · rw [← hq_mnemonic]
    constructor
    · intro h
      rw [eq_of_selects hq hr hsel h]
    · intro h
      rwa [← List.inj_on_of_nodup_map nodup_mnemonics hq hr h]
  · rw [hunknown]
    constructor
    · exact fun h => absurd hunknown (decodeWord_ne_unknown_of_selects hr h)
    · exact fun h => absurd h.symm (mnemonic_ne_unknown r hr)

/-- R107, R115: the words with no row are UNKNOWN. -/
theorem selects_no_row_iff (w : Word) :
    (∀ r ∈ opcodeMap, ¬r.selects w) ↔ decodeWord w = .unknown w := by
  constructor
  · intro h
    exact (decodeWord_cases w).resolve_left fun ⟨r, hr, hsel, _⟩ => h r hr hsel
  · exact fun hunknown r hr hsel => decodeWord_ne_unknown_of_selects hr hsel hunknown

/-! ## The table of R115 in numbers -/

theorem unassigned_iff (w : Word) :
    unassigned w = true ↔
      (w.cat.toNat = 0x0 ∧ w.toNat ≠ 0x00E0 ∧ w.toNat ≠ 0x00EE) ∨ (w.cat.toNat = 0x5 ∧ w.nibN.toNat ≠ 0) ∨
      (w.cat.toNat = 0x8 ∧ w.nibN.toNat ∈ [0x8, 0x9, 0xA, 0xB, 0xC, 0xD, 0xF]) ∨
      (w.cat.toNat = 0x9 ∧ w.nibN.toNat ≠ 0) ∨ (w.cat.toNat = 0xE ∧ w.lo.toNat ∉ [0x9E, 0xA1]) ∨
      (w.cat.toNat = 0xF ∧ w.lo.toNat ∉ [0x07, 0x0A, 0x15, 0x18, 0x1E, 0x29, 0x33, 0x55, 0x65]) := by
  unfold unassigned
  split
  case h_1 hc | h_2 hc | h_3 hc | h_4 hc | h_5 hc | h_6 hc => simp [hc, ← BitVec.toNat_inj]
  case h_7 => simp_all

end Sys2Proof

namespace Sys2Proof.Claims

/-- Settles O1: the bytes are those of the instruction's word, and the word decodes to the instruction. -/
theorem everyInstructionDecodesFromItsEncoding : Obligations.EveryInstructionDecodesFromItsEncoding := by
  intro i hwf rest
  rw [decode_encode_append, decodeWord_encodeWord hwf]

/-- Settles O2, by the two levels of the dispatch. -/
theorem everyWordIsTheWordOfItsDecoding : Obligations.EveryWordIsTheWordOfItsDecoding :=
  fun w => ⟨wellFormed_decodeWord w, encodeWord_decodeWord w⟩

/-- Settles O3: a word selects the row of the instruction it decodes to, and by R108 no other. -/
theorem decoderYieldsTheSelectedRow : Obligations.DecoderYieldsTheSelectedRow :=
  fun w => ⟨fun _ hr => selects_iff_mnemonic hr, selects_no_row_iff w⟩

/-- Settles O4: the word under its category's mask is the pattern of any row it selects, and the patterns differ. -/
theorem opcodeRowsAreDisjoint : Obligations.OpcodeRowsAreDisjoint :=
  ⟨rfl, (List.pairwise_map.1 nodup_patterns).imp_of_mem fun hr hq hne _ ⟨hrw, hqw⟩ =>
    hne (congrArg OpRow.pattern (eq_of_selects hr hq hrw hqw))⟩

/-- Settles O5: UNKNOWN is left with the unassigned words, and the numbers of the table are those of their fields. -/
theorem unknownWordsAreThoseOfTheTable : Obligations.UnknownWordsAreThoseOfTheTable := by
  intro w c n nn
  have hc : w.cat.toNat = c := (extract_toNat w 12 4).trans (by omega)
  have hn : w.nibN.toNat = n := (extract_toNat w 0 4).trans (by omega)
  have hnn : w.lo.toNat = nn := (extract_toNat w 0 8).trans (by omega)
  rw [decodeWord_eq_unknown_iff, unassigned_iff, hc, hn, hnn]

/-- Settles O6, by running the decoder on the fourteen words. -/
theorem specWordsDecode : Obligations.SpecWordsDecode := by
  unfold Obligations.SpecWordsDecode
  decide

end Sys2Proof.Claims
end

section
/-! A core with no fault recorded never gets stuck (30_encoding.md R116; 60_exceptions.md R271). -/

namespace Sys2Proof.Machine

/-- Fetched or not, an instruction step answers a next state, since every instruction does. -/
theorem State.instrStep_next (s : State) : ∃ t, s.instrStep = .next t := by
  unfold State.instrStep
  cases s.fetch? with
  | none => exact ⟨_, rfl⟩
  | some w =>
    obtain ⟨t, ht, -⟩ := exec_answers (decodeWord w) s
    exact ⟨t, ht⟩

end Sys2Proof.Machine

namespace Sys2Proof.Claims

open Sys2Proof.Machine

/-- Settles O41: the two ends of a tick answer a next state, and so does every instruction step between them. -/
theorem stepAlwaysProceedsWithoutAFault : Obligations.StepAlwaysProceedsWithoutAFault := by
  intro s hfault
  match hs : s.sched with
  | .idle => exact ⟨s.beginTick, by rw [step, hfault, hs]⟩
  | .batch 0 => exact ⟨s.endTick, by rw [step, hfault, hs]⟩
  | .batch (n + 1) => exact step_batch hfault hs ▸ State.instrStep_next { s with sched := .batch n }

end Sys2Proof.Claims
end

section
/-! Completion (40_step.md R134): an instruction with a row in the table of faults raises a fault and does nothing
else; any other leaves pc as the table of net pcs says. -/

namespace Sys2Proof.Claims

open Sys2Proof.Machine

variable {s t : State}

/-! ## Instructions that raise a fault -/

/-- A range check that finds a byte above 0xFFF raises a fault (20_memory.md R73). -/
theorem rangeCheck_of_outOfRange {i : Instr} {lo count : Nat} {ok : State}
    (hbad : 0 < count ∧ lo + count - 1 > 0xFFF) (h : s.rangeCheck i lo count ok = .next t) :
    ∃ code word addr, t = s.raise code word addr := by
  rcases s.rangeCheck_cases i lo count ok with ⟨hrange, -⟩ | ⟨-, -, hraise⟩
  · unfold memSize at hrange
    omega
  · exact ⟨_, _, _, (Host.Outcome.next.inj (hraise.symm.trans h)).symm⟩

/-- R270, R271: an instruction with a row in the table of faults raises one. -/
theorem exec_of_faultOf_ne_none {i : Instr} (hsome : faultOf i s ≠ none) (h : exec i s = .next t) :
    ∃ code word addr, t = s.raise code word addr := by
  cases i
  case ret =>
    have hempty : s.sp.val = 0 := by simpa [faultOf] using hsome
    rcases s.pop?_cases with ⟨w, u, -, hsp, -, -⟩ | ⟨hpop, -⟩
    · omega
    · simp only [exec, execRet, hpop] at h
      cases h
      exact ⟨_, _, _, rfl⟩
  case call nnn =>
    have hfull : s.sp.val = 24 := by simpa [faultOf] using hsome
    rcases s.push?_cases (s.pc + 2#16) with ⟨u, -, hroom, -, -, -⟩ | ⟨hpush, -⟩
    · unfold stackDepth at hroom
      omega
    · simp only [exec, execCall, hpush] at h
      cases h
      exact ⟨_, _, _, rfl⟩
  case drw | ldBVx | storeRegs | loadRegs =>
    refine rangeCheck_of_outOfRange (not_not.1 fun hrange => hsome ?_) h
    exact if_neg hrange
  case skp x | sknp x =>
    have hkey : keyIndex? (s.reg x) = none := keyIndex?_eq_none.2 (by simpa [faultOf] using hsome)
    simp only [exec, execSkp, execSknp, hkey] at h
    cases h
    exact ⟨_, _, _, rfl⟩
  all_goals exact absurd rfl hsome

/-! ## The net pc of the instructions that raise none -/

theorem addrImm_eq_ofNat (nnn : Addr12) : addrImm nnn = BitVec.ofNat 16 nnn.toNat := by
  apply BitVec.eq_of_toNat_eq
  rw [addrImm_toNat, BitVec.toNat_ofNat]
  omega

/-- R157: the jump target as a number. -/
theorem offsetTarget_eq_ofNat (s : State) (nnn : Addr12) :
    s.offsetTarget nnn = BitVec.ofNat 16 (nnn.toNat + (s.reg 0).toNat) := by
  rw [State.offsetTarget, addrImm_eq_ofNat, BitVec.ofNat_add]
  congr 1
  apply BitVec.eq_of_toNat_eq
  simp

theorem skipIf_pc_eq_ite (s : State) (c : Bool) :
    (s.skipIf c).pc = if c then s.pc + 4#16 else s.pc + 2#16 := by
  cases c <;> rfl

/-- RET goes to the entry below SP. -/
theorem execRet_pc (hsp : s.sp.val ≠ 0) (h : execRet s = .next t) :
    t.pc = s.stack.toList.getD (s.sp.val - 1) 0 := by
  unfold execRet at h
  rcases s.pop?_cases with ⟨w, u, hpop, -, hw, -⟩ | ⟨-, hempty⟩
  · rw [hpop] at h
    cases h
    have hlt : s.sp.val - 1 < stackDepth := by omega
    rw [State.setPc_pc, hw ⟨s.sp.val - 1, hlt⟩ (Nat.sub_one_add_one hsp)]
    simp [hlt]
  · exact absurd hempty hsp

theorem execCall_pc {nnn : Addr12} (hsp : s.sp.val ≠ stackDepth) (h : execCall nnn s = .next t) :
    t.pc = addrImm nnn := by
  unfold execCall at h
  rcases s.push?_cases (s.pc + 2#16) with ⟨u, hpush, -⟩ | ⟨-, hfull⟩
  · rw [hpush] at h
    cases h
    rfl
  · exact absurd hfull hsp

/-- FX0A stays where it is until it completes. -/
theorem execLdVxK_pc {x : Reg} (h : execLdVxK x s = .next t) : t.pc = netPc (.ldVxK x) s := by
  unfold execLdVxK State.keyDown at h
  split at h
  case isTrue hlatched =>
    split at h
    case isTrue hheld =>
      have hwaits : waitCompletes s = false := by rw [waitCompletes, hheld, Bool.not_true, Bool.and_false]
      cases h
      simp [netPc, hwaits]
    case isFalse hreleased =>
      have hcompletes : waitCompletes s = true := by
        rw [waitCompletes, hlatched, Bool.eq_false_iff.2 hreleased]
        rfl
      cases h
      simp [netPc, hcompletes]
  case isFalse hclear =>
    have hwaits : waitCompletes s = false := by simp [waitCompletes, hclear]
    split at h <;> cases h <;> simp [netPc, hwaits]

/-- R134: an instruction with no row in the table of faults leaves the net pc of the table. -/
theorem exec_pc_of_faultOf_eq_none {i : Instr} (hnone : faultOf i s = none) (h : exec i s = .next t) :
    t.pc = netPc i s := by
  have of_rangeCheck {ok : State} (h : s.rangeCheck i s.index.toNat (dataBytes i s) ok = .next t) :
      ok = t :=
    Host.Outcome.next.inj ((rangeCheck_of_inRange (dataBytes_inRange hnone)).symm.trans h)
  cases i
  case ret => exact execRet_pc (by simpa [faultOf] using hnone) h
  case call nnn =>
    exact (execCall_pc (by simpa [faultOf] using hnone) h).trans (addrImm_eq_ofNat nnn)
  case jp nnn => cases h; exact addrImm_eq_ofNat nnn
  case jpV0 nnn => cases h; exact offsetTarget_eq_ofNat s nnn
  case seImm | sneImm | seReg | sneReg => cases h; exact skipIf_pc_eq_ite s _
  case skp x | sknp x =>
    obtain ⟨k, hk⟩ := exists_keyIndex? (b := s.reg x) (by simpa [faultOf] using hnone)
    simp only [exec, execSkp, execSknp, hk, State.keyDown, ← keyIndex?_eq_some.1 hk] at h
    cases h
    exact skipIf_pc_eq_ite s _
  case drw | ldBVx | storeRegs | loadRegs => rw [← of_rangeCheck h]; rfl
  case ldVxK x => exact execLdVxK_pc h
  case addReg | sub | shr | subn | shl =>
    cases h
    simp [netPc]
  all_goals cases h; rfl

/-- Settles O33: every instruction answers a next state; with no row in the table of faults it leaves the fault record
as it is, and pc as the table says. -/
theorem everyInstructionCompletesWithItsNetPc : Obligations.EveryInstructionCompletesWithItsNetPc := by
  intro i s hnone
  obtain ⟨t, ht, -⟩ := exec_answers i s
  exact ⟨t, ht, exec_pc_of_faultOf_eq_none hnone ht, exec_fault_of_faultOf_eq_none hnone ht⟩

end Sys2Proof.Claims
end

section
/-! What every step keeps (R134): memory in canonical form, pc within reach of some instruction, and return addresses
that a call pushed. -/

namespace Sys2Proof.Claims

open Sys2Proof.Machine

variable {s t : State}

/-! ## Memory -/

theorem mem_mem_mayChange_iff {i : Instr} :
    Component.mem ∈ mayChange i ↔ ∃ x, i = .ldBVx x ∨ i = .storeRegs x := by
  cases i <;> simp [mayChange]

/-- A range-checked store keeps the canonical form, whether it happens or the fault is raised. -/
theorem rangeCheck_storeBytes_keeps_wf {i : Instr} {lo count a : Nat} {bs : List Byte}
    (hwf : Memory.wf s.params.fontRom s.mem)
    (h : s.rangeCheck i lo count (s.storeBytes a bs).advance = .next t) :
    Memory.wf t.params.fontRom t.mem := by
  rcases s.rangeCheck_cases i lo count (s.storeBytes a bs).advance with ⟨-, hok⟩ | ⟨-, -, hraise⟩
  · cases hok.symm.trans h
    exact Memory.wf_writeBytes hwf a bs
  · cases hraise.symm.trans h
    exact hwf

theorem exec_keeps_memory_wf {i : Instr} (hwf : Memory.wf s.params.fontRom s.mem)
    (h : exec i s = .next t) : Memory.wf t.params.fontRom t.mem := by
  by_cases hmem : Component.mem ∈ mayChange i
  · obtain ⟨x, rfl | rfl⟩ := mem_mem_mayChange_iff.1 hmem
    · exact rangeCheck_storeBytes_keeps_wf hwf h
    · exact rangeCheck_storeBytes_keeps_wf hwf h
  · obtain ⟨hmem_kept, -⟩ := exec_keeps h (by decide) hmem
    have hparams : t.params = s.params := exec_keeps_control h (c := .params) (by decide)
    rwa [hmem_kept, hparams]

/-! ## The return addresses in use -/

/-- Every return address in use is one a call can push: the address after an instruction that can be fetched. -/
def ReturnsInReach (s : State) : Prop :=
  ∀ k : Fin stackDepth, k.val < s.sp.val → (s.stack[k]).toNat ≤ 0x1000

theorem stack_mem_mayChange_iff {i : Instr} :
    Component.stack ∈ mayChange i ↔ i = .ret ∨ ∃ nnn, i = .call nnn := by
  cases i <;> simp [mayChange]

theorem execRet_keeps_returnsInReach (hstack : ReturnsInReach s) (h : execRet s = .next t) :
    ReturnsInReach t := by
  unfold execRet at h
  rcases s.pop?_cases with ⟨w, u, hpop, hsp, -, hu⟩ | ⟨hpop, -⟩
  · rw [hpop] at h
    cases h
    intro k hk
    have hkept : u.stack = s.stack := by rw [hu]
    rw [State.setPc_sp] at hk
    rw [State.setPc_stack, hkept]
    exact hstack k (by omega)
  · rw [hpop] at h
    cases h
    exact hstack

theorem execCall_keeps_returnsInReach {nnn : Addr12} (hpc : s.pc.toNat ≤ 0xFFE)
    (hstack : ReturnsInReach s) (h : execCall nnn s = .next t) : ReturnsInReach t := by
  unfold execCall at h
  rcases s.push?_cases (s.pc + 2#16) with ⟨u, hpush, -, hsp, hentries, -⟩ | ⟨hpush, -⟩
  · rw [hpush] at h
    cases h
    intro k hk
    rw [State.setPc_sp] at hk
    rw [State.setPc_stack, hentries]
    split
    · bv_omega
    · exact hstack k (by omega)
  · rw [hpush] at h
    cases h
    exact hstack

theorem exec_keeps_returnsInReach {i : Instr} (hpc : s.pc.toNat ≤ 0xFFE) (hstack : ReturnsInReach s)
    (h : exec i s = .next t) : ReturnsInReach t := by
  by_cases hnamed : Component.stack ∈ mayChange i
  · obtain rfl | ⟨nnn, rfl⟩ := stack_mem_mayChange_iff.1 hnamed
    · exact execRet_keeps_returnsInReach hstack h
    · exact execCall_keeps_returnsInReach hpc hstack h
  · obtain ⟨hentries, hsp⟩ := exec_keeps h (by decide) hnamed
    unfold ReturnsInReach
    rwa [hentries, hsp]

/-! ## pc -/

/-- The furthest an instruction goes from where it can be fetched is BNNN's 0xFFF + 0xFF. -/
theorem netPc_toNat_le {i : Instr} (hpc : s.pc.toNat ≤ 0xFFE) (hstack : ReturnsInReach s)
    (hnone : faultOf i s = none) : (netPc i s).toNat ≤ 0x10FE := by
  have skip_le (c : Bool) : (if c then s.pc + 4#16 else s.pc + 2#16).toNat ≤ 0x10FE := by
    split <;> bv_omega
  have next_le : (s.pc + 2#16).toNat ≤ 0x10FE := skip_le false
  cases i
  case jp nnn | call nnn | jpV0 nnn =>
    simp only [netPc, BitVec.toNat_ofNat]
    omega
  case ret =>
    have hsp : s.sp.val ≠ 0 := by simpa [faultOf] using hnone
    have hlt : s.sp.val - 1 < stackDepth := by omega
    have hentry : netPc .ret s = s.stack[s.sp.val - 1] := by simp [netPc, hlt]
    rw [hentry]
    exact (hstack ⟨s.sp.val - 1, hlt⟩ (Nat.sub_one_lt hsp)).trans (by decide)
  case seImm | sneImm | seReg | sneReg | skp | sknp => exact skip_le _
  case ldVxK =>
    simp only [netPc]
    split
    · exact next_le
    · omega
  all_goals exact next_le

theorem exec_pc_toNat_le {i : Instr} (hpc : s.pc.toNat ≤ 0xFFE) (hstack : ReturnsInReach s)
    (h : exec i s = .next t) : t.pc.toNat ≤ 0x10FE := by
  by_cases hnone : faultOf i s = none
  · rw [exec_pc_of_faultOf_eq_none hnone h]
    exact netPc_toNat_le hpc hstack hnone
  · obtain ⟨code, word, addr, rfl⟩ := exec_of_faultOf_ne_none hnone h
    exact hpc.trans (by decide)

/-! ## The step -/

/-- An instruction run where it can be fetched keeps the invariant. -/
theorem exec_keeps_inv {i : Instr} (hpc : s.pc.toNat ≤ 0xFFE) (hinv : s.Inv) (h : exec i s = .next t) :
    t.Inv := by
  obtain ⟨hwf, -, hstack⟩ := hinv
  exact ⟨exec_keeps_memory_wf hwf h, exec_pc_toNat_le hpc hstack h, exec_keeps_returnsInReach hpc hstack h⟩

theorem beginTick_keeps_inv (hinv : s.Inv) : s.beginTick.Inv := by
  rcases s.beginTick_cases with ⟨-, h⟩ | ⟨-, -, h⟩ | ⟨-, -, h⟩ <;> rw [h] <;> exact hinv

/-- Settles O47: an instruction runs where it can be fetched; the ends of a tick and the fetch fault write neither
memory nor pc nor the stack. -/
theorem stepKeepsReachInvariant : Obligations.StepKeepsReachInvariant := by
  intro s t hinv h
  obtain ⟨-, ⟨-, rfl⟩ | ⟨-, rfl⟩ | ⟨n, -, ⟨w, hfetch, hexec⟩ | ⟨-, rfl⟩⟩⟩ := step_cases h
  · exact beginTick_keeps_inv hinv
  · exact hinv
  · obtain ⟨hpc, -⟩ := s.fetch?_eq_some.1 hfetch
    exact exec_keeps_inv (s := { s with sched := .batch n }) hpc hinv hexec
  · exact hinv

end Sys2Proof.Claims
end

section
/-! Which instruction a step runs, and that UNKNOWN is reported and skipped (40_step.md R130 to R132, R135). -/

namespace Sys2Proof.Machine

variable {s : State} {n : Nat}

/-- R130, R132: a step of the batch runs the word it fetches. -/
theorem step_of_fetch?_eq_some {w : Word} (hf : s.fault = none) (hs : s.sched = .batch (n + 1))
    (hfetch : s.fetch? = some w) : step s = exec (decodeWord w) { s with sched := .batch n } := by
  have hcounted : State.fetch? { s with sched := .batch n } = some w := hfetch
  rw [step_batch hf hs, State.instrStep, hcounted]

/-- R131: a step of the batch with nothing to fetch records the fetch fault. -/
theorem step_of_fetch?_eq_none (hf : s.fault = none) (hs : s.sched = .batch (n + 1))
    (hfetch : s.fetch? = none) : step s = .next (State.fetchFault { s with sched := .batch n }) := by
  have hcounted : State.fetch? { s with sched := .batch n } = none := hfetch
  rw [step_batch hf hs, State.instrStep, hcounted]

/-! ## A word placed at pc (log 14) -/

/-- At the place in the tick that `forInstr` gives, a step of the batch is left. -/
theorem Sched.exists_forInstr_eq_batch (p : Sched) : ∃ n, p.forInstr = .batch (n + 1) :=
  match p with
  | .idle | .batch 0 => ⟨0, rfl⟩
  | .batch (n + 1) => ⟨n, rfl⟩

theorem bytesOfTableWord_toNat (w : Word) : bytesOfTableWord 16 w.toNat = [w.hi, w.lo] := by
  simp [bytesOfTableWord, Nat.mod_eq_of_lt w.isLt]

theorem State.withFetchWord_frame (s : State) (nbits w : Nat) :
    OnlyChanges [.mem, .sched] s (s.withFetchWord nbits w) := by
  apply onlyChanges_of_fields <;> simp [State.withFetchWord]

/-- The two bytes of the word stand at pc, every other byte is kept. -/
theorem State.readByte_withFetchWord (hm : Memory.wf s.params.fontRom s.mem) (hpc : s.pc.toNat ≤ 0xFFE)
    (w : Word) (a : Nat) :
    (s.withFetchWord 16 w.toNat).readByte a =
      if a = s.pc.toNat then w.hi else if a = s.pc.toNat + 1 then w.lo else s.readByte a := by
  have hspace : s.pc.toNat + [w.hi, w.lo].length ≤ memSize := by simp [memSize]; omega
  have hread : (s.withFetchWord 16 w.toNat).readByte a = (s.storeBytes s.pc.toNat [w.hi, w.lo]).readByte a := by
    rw [← bytesOfTableWord_toNat]
    rfl
  rw [hread, s.readByte_storeBytes hm _ _ hspace]
  by_cases hhi : a = s.pc.toNat
  · simp [hhi]
  · by_cases hlo : a = s.pc.toNat + 1
    · simp [hlo]
    · rw [if_neg (by simp; omega), if_neg hhi, if_neg hlo]

/-- The next fetch is the word placed. -/
theorem State.fetch?_withFetchWord (hm : Memory.wf s.params.fontRom s.mem) (hpc : s.pc.toNat ≤ 0xFFE)
    (w : Word) : (s.withFetchWord 16 w.toNat).fetch? = some w := by
  have hpc_kept : (s.withFetchWord 16 w.toNat).pc = s.pc := rfl
  rw [State.fetch?_eq_some, hpc_kept]
  exact ⟨hpc, by simp [State.readByte_withFetchWord hm hpc]⟩

end Sys2Proof.Machine

namespace Sys2Proof.Claims

open Sys2Proof.Machine

/-- Settles O36: the two bytes are those of the fetch, which decodes them. -/
theorem stepRunsTheDecodedInstruction : Obligations.StepRunsTheDecodedInstruction := by
  intro s i n hf hs hpc hdecode
  have hfetch := s.fetch?_eq_some.2 ⟨hpc, rfl⟩
  have hi : decodeWord (wordOfBytes (s.readByte s.pc.toNat) (s.readByte (s.pc.toNat + 1))) = i :=
    congrArg Prod.fst (Except.ok.inj hdecode)
  rw [step_of_fetch?_eq_some hf hs hfetch, hi]

/-- Settles O37: with pc above 0xFFE there is nothing to fetch. -/
theorem fetchOutOfRangeFaults : Obligations.FetchOutOfRangeFaults :=
  fun s _ hf hs hpc => step_of_fetch?_eq_none hf hs (s.fetch?_eq_none.2 hpc)

/-- Settles O55: the place in the tick leaves a step of the batch, and the bytes that step fetches are the word's. -/
theorem placedWordIsRunByTheNextStep : Obligations.PlacedWordIsRunByTheNextStep := by
  intro s w hf hm hpc
  obtain ⟨n, hn⟩ := s.sched.exists_forInstr_eq_batch
  refine ⟨n, hn, step_of_fetch?_eq_some hf hn (State.fetch?_withFetchWord hm hpc w),
    s.withFetchWord_frame _ _, fun a hhi hlo => ?_⟩
  rw [State.readByte_withFetchWord hm hpc, if_neg hhi, if_neg hlo]

/-- Settles O19: a word with no row is UNKNOWN, whose meaning emits the event and goes to the next instruction. -/
theorem unknownWordIsReportedAndSkipped : Obligations.UnknownWordIsReportedAndSkipped :=
  fun w s => ⟨(selects_no_row_iff w).1, (s.emitDiag w).advance, rfl, rfl, rfl, rfl, rfl,
    (s.emitDiag_frame w).advance⟩

end Sys2Proof.Claims
end

section
/-! The patterns of R107 as numbers, and control flow (41_control_flow.md R150 to R157): jumps, skips, calls and
returns. -/

namespace Sys2Proof

theorem nibOf_toNat (k : Fin 16) : (nibOf k).toNat = k.val :=
  Nat.mod_eq_of_lt k.isLt

/-- A word decodes to the instruction whose word it is. -/
theorem decodeWord_of_eq_encodeWord {w : Word} {i : Instr} (hw : w = encodeWord i)
    (hwf : i.wellFormed = true) : decodeWord w = i :=
  hw ▸ decodeWord_encodeWord hwf

end Sys2Proof

namespace Sys2Proof.Claims

/-! ## The patterns as words of the formats (30_encoding.md R103) -/

theorem hexA_eq_wordA (c : Nat) (nnn : Addr12) : hexA c nnn = wordA (BitVec.ofNat 4 c) nnn := by
  apply BitVec.eq_of_toNat_eq
  simp only [hexA, wordA, wordOf_toNat, extract_toNat, BitVec.toNat_ofNat]
  omega

theorem hexXNN_eq_wordXNN (c : Nat) (x : Reg) (nn : Byte) :
    hexXNN c x nn = wordXNN (BitVec.ofNat 4 c) x nn := by
  apply BitVec.eq_of_toNat_eq
  simp only [hexXNN, wordXNN, wordOf_toNat, nibOf_toNat, extract_toNat, BitVec.toNat_ofNat]
  omega

theorem hexXYN_eq_wordXY (c : Nat) (x y : Reg) {n : Nat} (hn : n < 16) :
    hexXYN c x y n = wordXY (BitVec.ofNat 4 c) x y (BitVec.ofNat 4 n) := by
  apply BitVec.eq_of_toNat_eq
  simp only [hexXYN, wordXY, wordOf_toNat, nibOf_toNat, BitVec.toNat_ofNat]
  omega

end Sys2Proof.Claims

namespace Sys2Proof.Machine

/-! ## The meanings with two outcomes -/

/-- CALL pushes pc + 2 and jumps, or the stack is full and the fault is recorded (R152). -/
theorem execCall_cases (nnn : Addr12) (s : State) :
    (∃ t, execCall nnn s = .next (t.setPc (addrImm nnn)) ∧ s.sp.val < stackDepth ∧
      t.sp.val = s.sp.val + 1 ∧
      (∀ k : Fin stackDepth, t.stack[k] = if k.val = s.sp.val then s.pc + 2#16 else s.stack[k]) ∧
      OnlyChanges [.stack] s t) ∨
    (execCall nnn s = .next (s.raise .stackOverflow (some (encodeWord (.call nnn))) none) ∧
      s.sp.val = stackDepth) := by
  unfold execCall
  rcases s.push?_cases (s.pc + 2#16) with ⟨t, hpush, hroom, hsp, hentries, ht⟩ | ⟨hpush, hfull⟩
  · have hframe : OnlyChanges [.stack] s t := by rw [ht]; exact s.withStack_frame t.stack t.sp
    rw [hpush]
    exact .inl ⟨t, rfl, hroom, hsp, hentries, hframe⟩
  · rw [hpush]
    exact .inr ⟨rfl, hfull⟩

/-- RET jumps to the entry below SP, which keeps its value, or the stack is empty and the fault is recorded
(R150). -/
theorem execRet_cases (s : State) :
    (∃ w t, execRet s = .next (t.setPc w) ∧ t.sp.val + 1 = s.sp.val ∧
      (∀ k : Fin stackDepth, k.val + 1 = s.sp.val → w = s.stack[k]) ∧ t.stack = s.stack ∧
      OnlyChanges [.stack] s t) ∨
    (execRet s = .next (s.raise .stackUnderflow (some (encodeWord .ret)) none) ∧ s.sp.val = 0) := by
  unfold execRet
  rcases s.pop?_cases with ⟨w, t, hpop, hsp, hw, ht⟩ | ⟨hpop, hempty⟩
  · have hstack : t.stack = s.stack := by rw [ht]
    have hframe : OnlyChanges [.stack] s t := by rw [ht]; exact s.withStack_frame s.stack t.sp
    rw [hpop]
    exact .inl ⟨w, t, rfl, hsp, hw, hstack, hframe⟩
  · rw [hpop]
    exact .inr ⟨rfl, hempty⟩

end Sys2Proof.Machine

namespace Sys2Proof.Claims

open Sys2Proof.Machine

/-! ## Jumps, calls, returns and skips -/

/-- R157: the sum fits in 16 bits, so it is the sum of the numbers. -/
theorem offsetTarget_toNat (s : State) (nnn : Addr12) :
    (s.offsetTarget nnn).toNat = nnn.toNat + (s.reg 0).toNat := by
  rw [offsetTarget_eq_ofNat, BitVec.toNat_ofNat]
  omega

/-- An instruction that answers `skipIf` of a test is a skip on what the test decides. -/
theorem skipsIf_of_exec_eq {i : Instr} {s : State} {c : Bool} {cond : Prop} (hc : c = true ↔ cond)
    (h : exec i s = .next (s.skipIf c)) : SkipsIf i s cond := by
  refine ⟨s.skipIf c, h, fun hcond => ?_, fun hcond => ?_, s.skipIf_frame c⟩
  · rw [skipIf_pc_eq_ite, if_pos (hc.2 hcond)]
  · rw [skipIf_pc_eq_ite, if_neg (mt hc.1 hcond)]

/-- Settles O14: both jumps write their target to pc and nothing else. -/
theorem jumpsSetPc : Obligations.JumpsSetPc := fun nnn s =>
  ⟨⟨decodeWord_of_eq_encodeWord (hexA_eq_wordA 0x1 nnn) rfl,
      s.setPc (addrImm nnn), rfl, addrImm_eq_ofNat nnn, s.setPc_frame _⟩,
    decodeWord_of_eq_encodeWord (hexA_eq_wordA 0xB nnn) rfl,
    s.setPc (s.offsetTarget nnn), rfl, offsetTarget_toNat s nnn, s.setPc_frame _⟩

/-- Settles O15, by the two outcomes of CALL, of which the depth of the stack excludes one. -/
theorem callPushesTheNextAddressOrOverflows : Obligations.CallPushesTheNextAddressOrOverflows := by
  intro nnn s
  have hword := hexA_eq_wordA 0x2 nnn
  refine ⟨decodeWord_of_eq_encodeWord hword rfl, ?_⟩
  rcases execCall_cases nnn s with ⟨t, hexec, hroom, hsp, hentries, hframe⟩ | ⟨hexec, hfull⟩
  · exact ⟨fun _ => ⟨_, hexec, addrImm_toNat nnn, hsp, hentries, hframe.setPc _⟩,
      fun hfull => absurd hfull hroom.ne⟩
  · refine ⟨fun hroom => absurd hfull hroom.ne, fun _ => ?_⟩
    rw [Raises, hword]
    exact hexec

/-- Settles O16, by the two outcomes of RET, of which the depth of the stack excludes one. -/
theorem returnPopsOrUnderflows : Obligations.ReturnPopsOrUnderflows := by
  intro s
  refine ⟨decodeWord_of_eq_encodeWord rfl rfl, ?_⟩
  rcases execRet_cases s with ⟨w, t, hexec, hsp, hw, hstack, hframe⟩ | ⟨hexec, hempty⟩
  · refine ⟨fun k hk => ⟨_, hexec, hw k hk.symm, ?_, hstack, hframe.setPc w⟩, fun hempty => ?_⟩
    · rw [State.setPc_sp]; omega
    · omega
  · exact ⟨fun k hk => by omega, fun _ => hexec⟩

/-- Settles O17: the return pops the entry that the call pushed, and a pop keeps every entry. -/
theorem returnAfterCallComesBack : Obligations.ReturnAfterCallComesBack := by
  intro nnn s t hroom hcall
  obtain ⟨-, hpushes, -⟩ := callPushesTheNextAddressOrOverflows nnn s
  obtain ⟨t', ht', -, hsp, hentries, hframe⟩ := hpushes hroom
  obtain rfl : t' = t := Host.Outcome.next.inj (ht'.symm.trans hcall)
  obtain ⟨-, hpops, -⟩ := returnPopsOrUnderflows t'
  obtain ⟨u, hret, hpc, husp, hstack, huframe⟩ := hpops ⟨s.sp.val, hroom⟩ hsp
  refine ⟨u, hret, ?_, Fin.ext husp, hframe.trans huframe, fun k hk => ?_⟩
  · rw [hpc, hentries, if_pos rfl]
  · rw [hstack, hentries, if_neg hk.ne]

/-- Settles O18: each skip tests its condition, for the immediate and for the register. -/
theorem skipsAdvanceByFourOrTwo : Obligations.SkipsAdvanceByFourOrTwo := fun x y nn s =>
  ⟨⟨decodeWord_of_eq_encodeWord (hexXNN_eq_wordXNN 0x3 x nn) rfl, skipsIf_of_exec_eq beq_iff_eq rfl⟩,
    ⟨decodeWord_of_eq_encodeWord (hexXNN_eq_wordXNN 0x4 x nn) rfl, skipsIf_of_exec_eq bne_iff_ne rfl⟩,
    ⟨decodeWord_of_eq_encodeWord (hexXYN_eq_wordXY 0x5 x y (by decide)) rfl,
      skipsIf_of_exec_eq beq_iff_eq rfl⟩,
    decodeWord_of_eq_encodeWord (hexXYN_eq_wordXY 0x9 x y (by decide)) rfl,
    skipsIf_of_exec_eq bne_iff_ne rfl⟩

end Sys2Proof.Claims
end

section
/-! Register file and ALU (42_alu.md R170 to R183): each meaning writes one register, a result and a flag, or a
masked draw. -/

namespace Sys2Proof.Machine

/-! ## Results and flags as numbers (42_alu.md R170) -/

theorem flagByte_toNat (f : Bool) : (flagByte f).toNat = if f then 1 else 0 := by
  cases f <;> rfl

/-- The wraparound difference of R179 and R181. -/
theorem sub_toNat (p q : Byte) : (p - q).toNat = (p.toNat + 256 - q.toNat) % 256 := by
  rw [BitVec.toNat_sub]
  omega

theorem shr_toNat (q : Byte) : (q >>> 1).toNat = q.toNat / 2 := by
  rw [BitVec.toNat_ushiftRight, Nat.shiftRight_eq_div_pow, pow_one]

theorem shl_toNat (q : Byte) : (q <<< 1).toNat = q.toNat * 2 % 256 := by
  rw [BitVec.toNat_shiftLeft, Nat.shiftLeft_eq, pow_one]

theorem shrOut_eq (q : Byte) : shrOut q = decide (q.toNat % 2 = 1) :=
  Nat.testBit_zero q.toNat

theorem shlOut_eq (q : Byte) : shlOut q = decide (q.toNat ≥ 128) := by
  rw [shlOut, ← BitVec.msb_eq_getLsbD_last, BitVec.msb_eq_decide]

/-! ## The draw (42_alu.md R183) -/

theorem State.nextDraw_of_cons {s : State} {d : Byte} {rest : List Byte} (h : s.env.randIn = d :: rest) :
    s.nextDraw = d := by
  rw [State.nextDraw, h]

theorem State.nextDraw_of_nil {s : State} (h : s.env.randIn = []) :
    s.nextDraw = Config.randomByte s.env.draws := by
  rw [State.nextDraw, h]

end Sys2Proof.Machine

namespace Sys2Proof.Claims

open Sys2Proof.Machine

/-- The pattern of formats `XY` and `XYN` decodes to the instruction whose word it is. -/
theorem decodeWord_hexXYN {c n : Nat} {x y : Reg} {i : Instr} (hn : n < 16)
    (hword : wordXY (BitVec.ofNat 4 c) x y (BitVec.ofNat 4 n) = encodeWord i)
    (hwf : i.wellFormed = true) : decodeWord (hexXYN c x y n) = i :=
  decodeWord_of_eq_encodeWord ((hexXYN_eq_wordXY c x y hn).trans hword) hwf

/-! ## The two shapes of effect -/

section

variable {i : Instr} {s : State} {x : Reg}

/-- An instruction that answers one register written and pc advanced has the effect `WritesReg`. -/
theorem writesReg_of_exec_eq {b : Byte} (h : exec i s = .next (s.setReg x b).advance) :
    WritesReg i s x b :=
  ⟨_, h, s.reg_setReg x b, rfl, (s.setReg_frame x b).advance⟩

/-- An instruction that answers R171's two writes and pc advanced has the effect `WritesResultAndFlag`. -/
theorem writesResultAndFlag_of_exec_eq {r : Byte} {f : Bool}
    (h : exec i s = .next (s.writeResultAndFlag x r f).advance) :
    WritesResultAndFlag i s x r.toNat f := by
  refine ⟨_, h, fun hx => ⟨?_, ?_⟩, fun hx horder => ?_, fun hx horder => ?_, fun q hqx hqf => ?_, ?_,
    (s.writeResultAndFlag_frame x r f).advance⟩
  · rw [State.reg_advance, State.reg_writeResultAndFlag, if_neg hx, if_pos rfl]
  · rw [State.reg_advance, State.reg_writeResultAndFlag, if_pos rfl, if_neg hx, flagByte_toNat]
  · rw [State.reg_advance, State.reg_writeResultAndFlag, if_pos rfl, if_pos hx, horder, lastWrite,
      flagByte_toNat]
  · rw [State.reg_advance, State.reg_writeResultAndFlag, if_pos rfl, if_pos hx, horder, lastWrite]
  · rw [State.reg_advance, State.reg_writeResultAndFlag, if_neg hqf, if_neg hqx]
  · rw [State.advance_pc, State.writeResultAndFlag_pc]

end

/-! ## Loads, arithmetic, logic, shifts and the random draw -/

/-- Settles O7: the meaning writes the immediate to V[X]. -/
theorem loadImmediateSetsVx : Obligations.LoadImmediateSetsVx := fun x nn _ =>
  ⟨decodeWord_of_eq_encodeWord (hexXNN_eq_wordXNN 0x6 x nn) rfl, writesReg_of_exec_eq rfl⟩

/-- Settles O8: the sum of bytes is the sum of the numbers mod 256, and one register is written. -/
theorem addImmediateWrapsAndLeavesVf : Obligations.AddImmediateWrapsAndLeavesVf := by
  intro x nn s
  refine ⟨decodeWord_of_eq_encodeWord (hexXNN_eq_wordXNN 0x7 x nn) rfl, ?_⟩
  have hsum : BitVec.ofNat 8 (((s.reg x).toNat + nn.toNat) % 256) = s.reg x + nn :=
    BitVec.eq_of_toNat_eq (by simp)
  rw [hsum]
  exact writesReg_of_exec_eq rfl

/-- Settles O9: each meaning writes its value to V[X]. -/
theorem assignAndLogicOpsWriteVxOnly : Obligations.AssignAndLogicOpsWriteVxOnly := fun x y _ =>
  ⟨⟨decodeWord_hexXYN (by decide) rfl rfl, writesReg_of_exec_eq rfl⟩,
    ⟨decodeWord_hexXYN (by decide) rfl rfl, writesReg_of_exec_eq rfl⟩,
    ⟨decodeWord_hexXYN (by decide) rfl rfl, writesReg_of_exec_eq rfl⟩,
    decodeWord_hexXYN (by decide) rfl rfl, writesReg_of_exec_eq rfl⟩

/-- Settles O10: the model's carry is the statement's, and the sum of bytes is that of the numbers mod 256. -/
theorem addSetsCarry : Obligations.AddSetsCarry := by
  intro x y s
  refine ⟨decodeWord_hexXYN (by decide) rfl rfl, ?_⟩
  rw [← BitVec.toNat_add]
  exact writesResultAndFlag_of_exec_eq rfl

/-- Settles O11: both subtract by `sub_toNat`, with the minuend strictly greater as the flag. -/
theorem subtractionsSetStrictNoBorrow : Obligations.SubtractionsSetStrictNoBorrow := by
  intro x y s
  rw [← sub_toNat, ← sub_toNat]
  exact ⟨⟨decodeWord_hexXYN (by decide) rfl rfl, writesResultAndFlag_of_exec_eq rfl⟩,
    decodeWord_hexXYN (by decide) rfl rfl, writesResultAndFlag_of_exec_eq rfl⟩

/-- Settles O12: both shift V[Y], with the bit shifted out as the flag. -/
theorem shiftsTakeVyAndSetTheBitShiftedOut : Obligations.ShiftsTakeVyAndSetTheBitShiftedOut := by
  intro x y s
  rw [← shr_toNat, ← shl_toNat, ← shrOut_eq, ← shlOut_eq]
  exact ⟨⟨decodeWord_hexXYN (by decide) rfl rfl, writesResultAndFlag_of_exec_eq rfl⟩,
    decodeWord_hexXYN (by decide) rfl rfl, writesResultAndFlag_of_exec_eq rfl⟩

/-- Settles O13: the draw is the head of the list or, the list being empty, the free value, and it is taken. -/
theorem randomMasksAFreshDraw : Obligations.RandomMasksAFreshDraw := by
  intro x nn s
  have hx : (s.tookDraw.setReg x (s.nextDraw &&& nn)).advance.reg x = s.nextDraw &&& nn := by
    rw [State.reg_advance, State.reg_setReg, if_pos rfl]
  refine ⟨decodeWord_of_eq_encodeWord (hexXNN_eq_wordXNN 0xC x nn) rfl, _, rfl, fun r hr => ?_,
    fun d rest hcons => ⟨?_, ?_⟩, fun hnil => ⟨?_, ?_⟩, rfl, rfl, rfl, rfl,
    (s.tookDraw_frame.andThen (State.setReg_frame _ x _)).advance.mono (by simp)⟩
  · rw [State.reg_advance, State.reg_setReg, if_neg hr, State.reg_tookDraw]
  · rw [hx, State.nextDraw_of_cons hcons]
  · simp [hcons]
  · rw [hx, State.nextDraw_of_nil hnil]
  · simp [hnil]

end Sys2Proof.Claims
end

section
/-! Index register and memory transfers (43_index_memory.md R200 to R206): each sets I, or is a range check of the
bytes it accesses before its transfer. -/

namespace Sys2Proof.Claims

open Sys2Proof.Machine

/-- The pattern of format `X` is the word of its sub-operation's two nibbles (30_encoding.md R103). -/
theorem hexX_eq_wordX (c : Nat) (x : Reg) {ss : Nat} (hss : ss < 256) :
    hexX c x ss = wordX (BitVec.ofNat 4 c) x (BitVec.ofNat 4 (ss / 16)) (BitVec.ofNat 4 (ss % 16)) := by
  apply BitVec.eq_of_toNat_eq
  simp only [hexX, wordX, wordOf_toNat, nibOf_toNat, BitVec.toNat_ofNat]
  omega

/-! ## The shapes of effect -/

section

variable {i : Instr} {s : State}

/-- An instruction that answers I written and pc advanced has the effect `SetsIndex`. -/
theorem setsIndex_of_exec_eq {w : Word} {index : Nat} (hw : w.toNat = index)
    (h : exec i s = .next (s.setIndex w).advance) : SetsIndex i s index :=
  ⟨_, h, hw, rfl, (s.setIndex_frame w).advance⟩

/-- An instruction that answers bytes stored at I, inside the space, and pc advanced has the effect
`StoresAtIndex`. -/
theorem storesAtIndex_of_exec_eq {bytes : List Byte} (hwf : Memory.wf s.params.fontRom s.mem)
    (hrange : s.index.toNat + bytes.length ≤ memSize)
    (h : exec i s = .next (s.storeBytes s.index.toNat bytes).advance) : StoresAtIndex i s bytes := by
  have hread := s.readByte_storeBytes hwf s.index.toNat bytes hrange
  refine ⟨_, h, fun k hk => (hread _).trans ?_, fun a ha => (hread a).trans (if_neg (by omega)), rfl,
    (s.storeBytes_frame _ bytes).advance⟩
  rw [if_pos (by omega), Nat.add_sub_cancel_left]

/-- An instruction that is a range check which finds a byte above 0xFFF raises MEM_RANGE (20_memory.md R73). -/
theorem raises_of_outOfRange {lo count : Nat} {ok : State} {word : Word}
    (hbad : 0 < count ∧ lo + count - 1 > 0xFFF) (hword : word = encodeWord i)
    (h : exec i s = s.rangeCheck i lo count ok) : Raises i s .memRange word (some (max lo 0x1000)) := by
  rcases s.rangeCheck_cases i lo count ok with ⟨hrange, -⟩ | ⟨-, -, hraise⟩
  · unfold memSize at hrange
    omega
  · rw [hword]
    exact h.trans hraise

end

/-! ## The index register -/

/-- Settles O20: each meaning writes its value to I; the product of R202 fits in 16 bits. -/
theorem indexInstructionsSetI : Obligations.IndexInstructionsSetI := by
  intro nnn x s
  have hsum : (s.index + (s.reg x).zeroExtend 16).toNat = (s.index.toNat + (s.reg x).toNat) % 0x10000 := by
    simp
  have hglyph : (BitVec.ofNat 16 ((s.reg x).toNat * 5)).toNat = (s.reg x).toNat * 5 := by
    rw [BitVec.toNat_ofNat]
    omega
  exact ⟨⟨decodeWord_of_eq_encodeWord (hexA_eq_wordA 0xA nnn) rfl,
      setsIndex_of_exec_eq (addrImm_toNat nnn) rfl⟩,
    ⟨decodeWord_of_eq_encodeWord (hexX_eq_wordX 0xF x (by decide)) rfl, setsIndex_of_exec_eq hsum rfl⟩,
    decodeWord_of_eq_encodeWord (hexX_eq_wordX 0xF x (by decide)) rfl, setsIndex_of_exec_eq hglyph rfl⟩

/-! ## Transfers -/

/-- V[k] is byte k of the registers V0 to VX in order. -/
theorem getD_regsUpTo (s : State) {k x : Reg} (hk : k ≤ x) : (s.regsUpTo x).getD k.val 0 = s.reg k := by
  have hlt : k.val < x.val + 1 := Nat.lt_succ_of_le hk
  simp [State.regsUpTo, State.reg, List.getD, hlt]

/-- FX65, in range, writes V0 to VX from memory and goes to the next instruction. -/
theorem exec_loadRegs {s : State} {x : Reg} (hrange : s.index.toNat + x.val ≤ 0xFFF) :
    exec (.loadRegs x) s = .next (s.setRegs (Vector.ofFn fun k =>
      if k.val ≤ x.val then s.readByte (s.indexAddr k.val) else s.reg k)).advance :=
  rangeCheck_of_inRange (.inr (by unfold memSize State.indexAddr; omega))

/-- Settles O21: in range FX33 stores the three digits; past it the range check of three bytes raises. -/
theorem bcdStoresDigitsOrFaults : Obligations.BcdStoresDigitsOrFaults := by
  intro x s hwf
  have hword := hexX_eq_wordX 0xF x (ss := 0x33) (by decide)
  refine ⟨decodeWord_of_eq_encodeWord hword rfl, fun hin => ?_, fun hout => ?_⟩
  · have hrange : s.index.toNat + (storedBytes (.ldBVx x) s).length ≤ memSize := Nat.succ_le_succ hin
    exact storesAtIndex_of_exec_eq hwf hrange (exec_store (x := x) (by simp) hrange)
  · exact raises_of_outOfRange (count := 3) (by omega) hword rfl

/-- Settles O22: in range FX55 stores V0 to VX in order; past it the range check of X + 1 bytes raises. -/
theorem blockStoreStoresV0ToVxOrFaults : Obligations.BlockStoreStoresV0ToVxOrFaults := by
  intro x s hwf
  have hword := hexX_eq_wordX 0xF x (ss := 0x55) (by decide)
  refine ⟨decodeWord_of_eq_encodeWord hword rfl, fun hin => ?_, fun hout => ?_⟩
  · have hlen := length_storedBytes_storeRegs s x
    have hrange : s.index.toNat + (storedBytes (.storeRegs x) s).length ≤ memSize := by
      unfold memSize
      omega
    obtain ⟨t, hexec, hstored, hkept, hpc, hframe⟩ :=
      storesAtIndex_of_exec_eq hwf hrange (exec_store (x := x) (by simp) hrange)
    refine ⟨t, hexec, fun k hk => ?_, fun a ha => hkept a (by omega), hpc, hframe⟩
    have hlt : k.val < x.val + 1 := Nat.lt_succ_of_le hk
    rw [hstored k.val (by omega), ← regsUpTo_eq_storedBytes, getD_regsUpTo s hk]
  · exact raises_of_outOfRange (count := x.val + 1) (by omega) hword rfl

/-- Settles O23: in range FX65 writes each register up to X from its byte and every other with itself; past it the
range check of X + 1 bytes raises. -/
theorem blockLoadLoadsV0ToVxOrFaults : Obligations.BlockLoadLoadsV0ToVxOrFaults := by
  intro x s
  have hword := hexX_eq_wordX 0xF x (ss := 0x65) (by decide)
  refine ⟨decodeWord_of_eq_encodeWord hword rfl, fun hin => ?_, fun hout => ?_⟩
  · refine ⟨_, exec_loadRegs hin, fun k => ?_, rfl, (s.setRegs_frame _).advance⟩
    rw [State.reg_advance, State.reg_setRegs]
    exact Vector.getElem_ofFn _
  · exact raises_of_outOfRange (count := x.val + 1) (by omega) hword rfl

end Sys2Proof.Claims
end

section
/-! Display (44_display.md R220 to R223): a clear, and a draw told pixel by pixel through `SpriteLands`. -/

namespace Sys2Proof.Claims

open Sys2Proof.Machine

/-- What DXYN leaves where its range check passes: the bitmap drawn on, the collision in VF, and pc advanced. -/
def drawnState (s : State) (x y : Reg) (n : Fin 16) : State :=
  let drawn := drawRows (s.originX x) (s.originY y) (s.bytesAtIndex (drawnRowCount s y n)) (s.fb, false)
  ((s.setFb drawn.1).setReg vf (flagByte drawn.2)).advance

variable {s t : State} {x y : Reg} {n : Fin 16}

/-- DXYN is a range check of the rows it draws before the draw (R222). -/
theorem exec_drw_eq_rangeCheck (s : State) (x y : Reg) (n : Fin 16) :
    exec (.drw x y n) s =
      s.rangeCheck (.drw x y n) s.index.toNat (drawnRowCount s y n) (drawnState s x y n) := rfl

/-- DXYN, in range, draws. -/
theorem exec_drw_of_inRange
    (hrange : drawnRowCount s y n = 0 ∨ s.index.toNat + drawnRowCount s y n ≤ memSize) :
    exec (.drw x y n) s = .next (drawnState s x y n) :=
  rangeCheck_of_inRange hrange

/-- A draw that leaves no fault was in range, and it drew. -/
theorem exec_drw_of_fault_eq_none (h : exec (.drw x y n) s = .next t) (hfault : t.fault = none) :
    (drawnRowCount s y n = 0 ∨ s.index.toNat + drawnRowCount s y n ≤ memSize) ∧
      t = drawnState s x y n := by
  rw [exec_drw_eq_rangeCheck] at h
  rcases s.rangeCheck_cases (.drw x y n) s.index.toNat (drawnRowCount s y n) (drawnState s x y n) with
    ⟨hrange, hok⟩ | ⟨-, -, hraise⟩
  · exact ⟨hrange, Host.Outcome.next.inj (h.symm.trans hok)⟩
  · obtain rfl := Host.Outcome.next.inj (h.symm.trans hraise)
    exact absurd hfault (Option.some_ne_none _)

/-! ## The effect of a draw -/

theorem drawnState_frame (s : State) (x y : Reg) (n : Fin 16) :
    OnlyChanges [.fb, .regs, .pc] s (drawnState s x y n) :=
  ((s.setFb_frame _).andThen (State.setReg_frame _ _ _)).advance

/-- The bit that the draw loops see on a pixel is that of the sprite row and column which land there (R221). -/
theorem rowsBit_bytesAtIndex (s : State) (x y : Reg) (n : Fin 16) (px py : Nat) :
    rowsBit (s.originX x) (s.originY y) (s.bytesAtIndex (drawnRowCount s y n)) px py = true ↔
      SpriteLands s x y n px py := by
  have hlen : (s.bytesAtIndex (drawnRowCount s y n)).length = drawnRowCount s y n := by
    simp [State.bytesAtIndex]
  simp only [rowsBit, columnBit, Bool.and_eq_true, decide_eq_true_eq, hlen, SpriteLands]
  simp only [State.originX, State.originY]
  constructor
  · rintro ⟨⟨hy, hrow, hpy⟩, ⟨hx, hcol, hpx⟩, hbit⟩
    rw [s.getD_bytesAtIndex _ _ (by omega)] at hbit
    unfold drawnRowCount at hrow
    exact ⟨py - (s.reg y).toNat % 32, px - (s.reg x).toNat % 64, by omega, by omega, by omega, by omega,
      hpx, by omega, hbit⟩
  · rintro ⟨r, c, hr, hc, rfl, rfl, hpx, hpy, hbit⟩
    have hrow : r < drawnRowCount s y n := by unfold drawnRowCount; omega
    rw [Nat.add_sub_cancel_left, Nat.add_sub_cancel_left, s.getD_bytesAtIndex _ _ hrow]
    exact ⟨by omega, by omega, hbit⟩

/-- R222: a pixel on which a sprite bit lands is inverted. -/
theorem drawnState_pixel_of_lands {px py : Nat} (h : SpriteLands s x y n px py) :
    (drawnState s x y n).fb.pixel px py = !s.fb.pixel px py := by
  have hpixel := drawRows_pixel (s.originX x) (s.bytesAtIndex (drawnRowCount s y n)) px py (s.originY y)
    s.fb false
  rwa [(rowsBit_bytesAtIndex s x y n px py).2 h, Bool.xor_true] at hpixel

/-- R222: every other pixel is kept. -/
theorem drawnState_pixel_of_not_lands {px py : Nat} (h : ¬SpriteLands s x y n px py) :
    (drawnState s x y n).fb.pixel px py = s.fb.pixel px py := by
  have hpixel := drawRows_pixel (s.originX x) (s.bytesAtIndex (drawnRowCount s y n)) px py (s.originY y)
    s.fb false
  rwa [Bool.eq_false_iff.2 (mt (rowsBit_bytesAtIndex s x y n px py).1 h), Bool.xor_false] at hpixel

open Classical in
/-- R222: VF holds the collision. -/
theorem drawnState_vf (s : State) (x y : Reg) (n : Fin 16) :
    ((drawnState s x y n).reg 15).toNat =
      if ∃ px py, SpriteLands s x y n px py ∧ s.fb.pixel px py = true then 1 else 0 := by
  have hhit := drawRows_hit (s.originX x) (s.bytesAtIndex (drawnRowCount s y n)) (s.originY y) s.fb false
  simp only [Bool.false_eq_true, false_or, rowsBit_bytesAtIndex] at hhit
  rw [drawnState, State.reg_advance, State.reg_setReg, if_pos rfl, flagByte_toNat]
  exact if_congr hhit rfl rfl

theorem drawnState_vf_eq_one_iff :
    ((drawnState s x y n).reg 15).toNat = 1 ↔
      ∃ px py, SpriteLands s x y n px py ∧ s.fb.pixel px py = true := by
  rw [drawnState_vf]
  split <;> simp [*]

theorem drawnState_reg_of_ne_vf {r : Reg} (hr : r ≠ 15) : (drawnState s x y n).reg r = s.reg r := by
  rw [drawnState, State.reg_advance, State.reg_setReg, if_neg hr, State.reg_setFb]

/-! ## A second draw at the same origin -/

/-- Where a sprite lands depends on the origin, I and memory alone. -/
theorem spriteLands_congr (hx : (t.reg x).toNat % 64 = (s.reg x).toNat % 64)
    (hy : (t.reg y).toNat % 32 = (s.reg y).toNat % 32) (hindex : t.index = s.index)
    (hread : ∀ a, t.readByte a = s.readByte a) (px py : Nat) :
    SpriteLands t x y n px py ↔ SpriteLands s x y n px py := by
  simp only [SpriteLands, hx, hy, hindex, hread]

theorem drawnRowCount_congr (hy : (t.reg y).toNat % 32 = (s.reg y).toNat % 32) :
    drawnRowCount t y n = drawnRowCount s y n := by
  rw [drawnRowCount, drawnRowCount, hy]

/-! ## Clear, draw, and draw twice -/

/-- Settles O25: the cleared bitmap has no pixel set, and it is all that is written besides pc. -/
theorem clearClearsEveryPixel : Obligations.ClearClearsEveryPixel := fun s =>
  ⟨decodeWord_of_eq_encodeWord rfl rfl, (s.setFb FrameBuffer.clear).advance, rfl, FrameBuffer.pixel_clear, rfl,
    (s.setFb_frame _).advance⟩

/-- Settles O26: in range DXYN leaves `drawnState`; past it the range check of the drawn rows raises. -/
theorem drawXorsTheClippedSpriteOrFaults : Obligations.DrawXorsTheClippedSpriteOrFaults := by
  intro x y n s rows
  have hword := hexXYN_eq_wordXY 0xD x y n.isLt
  refine ⟨decodeWord_of_eq_encodeWord hword rfl, fun hin => ?_, fun hout => ?_⟩
  · have hrange : rows = 0 ∨ s.index.toNat + rows ≤ memSize := by unfold memSize; omega
    exact ⟨_, exec_drw_of_inRange hrange,
      fun _ _ _ _ => ⟨drawnState_pixel_of_lands, drawnState_pixel_of_not_lands⟩,
      fun hhit => (drawnState_vf s x y n).trans (if_pos hhit),
      fun hmiss => (drawnState_vf s x y n).trans (if_neg hmiss),
      fun _ => drawnState_reg_of_ne_vf, rfl, drawnState_frame s x y n⟩
  · exact raises_of_outOfRange hout hword (exec_drw_eq_rangeCheck s x y n)

/-- Settles O27. The second draw lands on the same pixels and inverts them back; one of them is set before it iff
the first draw turned it on. -/
theorem drawingTwiceRestoresTheFrameBuffer : Obligations.DrawingTwiceRestoresTheFrameBuffer := by
  intro x y n s t u _ hfirst hfault hx hy hsecond
  obtain ⟨hrange, rfl⟩ := exec_drw_of_fault_eq_none hfirst hfault
  have hindex : (drawnState s x y n).index = s.index := rfl
  rw [← drawnRowCount_congr hy, ← hindex] at hrange
  obtain rfl := Host.Outcome.next.inj ((exec_drw_of_inRange hrange).symm.trans hsecond)
  have hlands := spriteLands_congr (n := n) hx hy hindex fun _ => rfl
  constructor
  · refine FrameBuffer.ext_pixel fun px py => ?_
    by_cases h : SpriteLands s x y n px py
    · rw [drawnState_pixel_of_lands ((hlands px py).2 h), drawnState_pixel_of_lands h, Bool.not_not]
    · rw [drawnState_pixel_of_not_lands (mt (hlands px py).1 h), drawnState_pixel_of_not_lands h]
  · have hturned (px py : Nat) : (SpriteLands s x y n px py ∧ (drawnState s x y n).fb.pixel px py = true) ↔
        SpriteLands s x y n px py ∧ s.fb.pixel px py = false ∧ (drawnState s x y n).fb.pixel px py = true :=
      and_congr_right fun h => by simp [drawnState_pixel_of_lands h]
    rw [drawnState_vf_eq_one_iff]
    simp only [hlands, hturned]

end Sys2Proof.Claims
end

section
/-! Keys and timers (45_keys_timers.md R250 to R255): a set key-wait latch stays with its FX0A; the skips on the key
snapshot, the timer transfers and the wait for a key. -/

namespace Sys2Proof.Machine

variable {s t : State}

/-! ## A set latch belongs to the FX0A at pc (R255) -/

theorem State.beginTick_keeps_latchInv (hinv : s.LatchInv) : s.beginTick.LatchInv := by
  rcases s.beginTick_cases with ⟨-, h⟩ | ⟨-, -, h⟩ | ⟨-, -, h⟩ <;> rw [h] <;> exact hinv

theorem latch_mem_mayChange_iff {i : Instr} : Component.latch ∈ Claims.mayChange i ↔ ∃ x, i = .ldVxK x := by
  cases i <;> simp [Claims.mayChange]

/-- FX0A leaves its latch clear, or set with pc and memory, and so the word at pc, as they were. -/
theorem execLdVxK_latch_clear_or_same_fetch {x : Reg} (h : execLdVxK x s = .next t) :
    t.kwPressed = false ∨ t.fetch? = s.fetch? := by
  rcases execLdVxK_cases x s with hwait | ⟨k, hlatch⟩ | hcomplete
  · cases hwait.symm.trans h
    exact .inr rfl
  · cases hlatch.symm.trans h
    exact .inr rfl
  · cases hcomplete.symm.trans h
    exact .inl rfl

/-- An FX0A leaves a set latch only with itself still at pc. Where the word at pc is any other, no latch is set, and the
instruction sets none. -/
theorem exec_fetched_keeps_latchInv {w : Word} (hfetch : s.fetch? = some w) (hinv : s.LatchInv)
    (h : exec (decodeWord w) s = .next t) : t.LatchInv := by
  intro hset
  by_cases hlatch : Component.latch ∈ Claims.mayChange (decodeWord w)
  · obtain ⟨x, hx⟩ := latch_mem_mayChange_iff.1 hlatch
    rw [hx] at h
    rcases execLdVxK_latch_clear_or_same_fetch h with hclear | hsame
    · exact absurd hset (Bool.eq_false_iff.1 hclear)
    · exact ⟨w, x, hsame.trans hfetch, hx⟩
  · obtain ⟨hpressed, -⟩ := exec_keeps h (by decide) hlatch
    obtain ⟨w', x, hfetch', hx⟩ := hinv (hpressed.symm.trans hset)
    obtain rfl : w' = w := Option.some.inj (hfetch'.symm.trans hfetch)
    exact absurd (latch_mem_mayChange_iff.2 ⟨x, hx⟩) hlatch

/-! ## The skips on a key (R250, R251) -/

/-- With a key index in V[X] both skips test that key. -/
theorem exec_keySkips_of_le {x : Reg} (hkey : (s.reg x).toNat ≤ 15) :
    exec (.skp x) s = .next (s.skipIf (s.keyDown (s.reg x).toNat)) ∧
      exec (.sknp x) s = .next (s.skipIf (!s.keyDown (s.reg x).toNat)) := by
  obtain ⟨k, hk⟩ := Claims.exists_keyIndex? (not_lt.2 hkey)
  simp only [exec, execSkp, execSknp, hk, keyIndex?_eq_some.1 hk, and_self]

/-- Without one both record the fault, each with its own word. -/
theorem exec_keySkips_of_gt {x : Reg} (hkey : 15 < (s.reg x).toNat) :
    exec (.skp x) s = .next (s.raise .keyRange (some (encodeWord (.skp x))) (some (s.reg x).toNat)) ∧
      exec (.sknp x) s = .next (s.raise .keyRange (some (encodeWord (.sknp x))) (some (s.reg x).toNat)) := by
  simp only [exec, execSkp, execSknp, keyIndex?_eq_none.2 hkey, and_self]

/-! ## The wait for a key (R255) -/

/-- A pressed key below which none is pressed is the lowest. -/
theorem lowestKey?_of_lowest {keys : KeyState} {k : Reg} (hdown : keys.getLsbD k.val = true)
    (hlow : ∀ j : Reg, j < k → keys.getLsbD j.val = false) : lowestKey? keys = some k := by
  cases hm : lowestKey? keys with
  | none => exact absurd hdown (Bool.eq_false_iff.1 (lowestKey?_eq_none.1 hm k))
  | some m =>
    obtain ⟨hmdown, hmlow⟩ := lowestKey?_eq_some hm
    have hmk : ¬m < k := fun hlt => Bool.eq_false_iff.1 (hlow m hlt) hmdown
    have hkm : ¬k < m := fun hlt => Bool.eq_false_iff.1 (hmlow k hlt) hdown
    exact congrArg some (le_antisymm (not_lt.1 hkm) (not_lt.1 hmk))

theorem exec_ldVxK_of_no_key (x : Reg) (hlatch : s.kwPressed = false)
    (hkey : lowestKey? s.key = none) : exec (.ldVxK x) s = .next s := by
  simp [exec, execLdVxK, hlatch, hkey]

theorem exec_ldVxK_of_lowestKey (x : Reg) {k : Reg} (hlatch : s.kwPressed = false)
    (hkey : lowestKey? s.key = some k) : exec (.ldVxK x) s = .next (s.setLatch true k) := by
  simp [exec, execLdVxK, hlatch, hkey]

theorem exec_ldVxK_of_held (x : Reg) (hlatch : s.kwPressed = true)
    (hheld : s.keyDown s.kwKey.val = true) : exec (.ldVxK x) s = .next s := by
  simp [exec, execLdVxK, hlatch, hheld]

theorem exec_ldVxK_of_released (x : Reg) (hlatch : s.kwPressed = true)
    (hreleased : s.keyDown s.kwKey.val = false) :
    exec (.ldVxK x) s =
      .next ((s.setReg x (BitVec.ofNat 8 s.kwKey.val)).setLatch false s.kwKey).advance := by
  simp [exec, execLdVxK, hlatch, hreleased]

end Sys2Proof.Machine

namespace Sys2Proof.Claims

open Sys2Proof.Machine

/-- Settles O48: an instruction keeps the rule for the word it was fetched as; the ends of a tick and the fetch fault
write neither the latch nor pc nor memory. -/
theorem stepKeepsLatchInvariant : Obligations.StepKeepsLatchInvariant := by
  intro s t hinv h
  obtain ⟨-, ⟨-, rfl⟩ | ⟨-, rfl⟩ | ⟨n, -, ⟨w, hfetch, hexec⟩ | ⟨-, rfl⟩⟩⟩ := step_cases h
  · exact State.beginTick_keeps_latchInv hinv
  · exact hinv
  · exact exec_fetched_keeps_latchInv (s := { s with sched := .batch n }) hfetch hinv hexec
  · exact hinv

/-- Settles O28: with a key index in V[X] each skip tests that key, else each records the fault. -/
theorem keySkipsReadTheSnapshotOrFault : Obligations.KeySkipsReadTheSnapshotOrFault := by
  intro x s k
  have hskp := hexX_eq_wordX 0xE x (ss := 0x9E) (by decide)
  have hsknp := hexX_eq_wordX 0xE x (ss := 0xA1) (by decide)
  refine ⟨decodeWord_of_eq_encodeWord hskp rfl, decodeWord_of_eq_encodeWord hsknp rfl,
    fun hle => ?_, fun hgt => ?_⟩
  · obtain ⟨hskips, hskips_not⟩ := exec_keySkips_of_le hle
    exact ⟨skipsIf_of_exec_eq Iff.rfl hskips, skipsIf_of_exec_eq (Bool.not_eq_true' _).to_iff hskips_not⟩
  · rw [Raises, Raises, hskp, hsknp]
    exact exec_keySkips_of_gt hgt

/-- Settles O29: each meaning writes one byte, to V[X] or to a timer. -/
theorem timerTransfersMoveOneByte : Obligations.TimerTransfersMoveOneByte := fun x s =>
  ⟨⟨decodeWord_of_eq_encodeWord (hexX_eq_wordX 0xF x (by decide)) rfl, writesReg_of_exec_eq rfl⟩,
    ⟨decodeWord_of_eq_encodeWord (hexX_eq_wordX 0xF x (by decide)) rfl, (s.setDt (s.reg x)).advance, rfl, rfl, rfl,
      (s.setDt_frame _).advance⟩,
    decodeWord_of_eq_encodeWord (hexX_eq_wordX 0xF x (by decide)) rfl, (s.setSt (s.reg x)).advance, rfl, rfl, rfl,
    (s.setSt_frame _).advance⟩

/-- Settles O30: one lemma for each case of the wait; the key index, below 16, fits in a byte. -/
theorem keyWaitLatchesTheLowestKeyUntilRelease : Obligations.KeyWaitLatchesTheLowestKeyUntilRelease := by
  intro x s
  refine ⟨decodeWord_of_eq_encodeWord (hexX_eq_wordX 0xF x (by decide)) rfl,
    fun hlatch hup => exec_ldVxK_of_no_key x hlatch (lowestKey?_eq_none.2 hup),
    fun hlatch k hdown hlow => exec_ldVxK_of_lowestKey x hlatch (lowestKey?_of_lowest hdown hlow),
    exec_ldVxK_of_held x, fun hlatch hup => ?_⟩
  have hbyte : (BitVec.ofNat 8 s.kwKey.val).toNat = s.kwKey.val := by
    rw [BitVec.toNat_ofNat]
    omega
  refine ⟨_, exec_ldVxK_of_released x hlatch hup, fun r => ?_, rfl, rfl, rfl,
    ((s.setReg_frame x _).andThen (State.setLatch_frame _ false s.kwKey)).advance⟩
  rw [State.reg_advance, State.reg_setLatch, State.reg_setReg, apply_ite BitVec.toNat, hbyte]

end Sys2Proof.Claims
end

section
/-! The table of faults (60_exceptions.md R270): an instruction with a row there records exactly that row and does
nothing else, so a record that a step leaves tells the truth about the instruction at pc. -/

namespace Sys2Proof.Claims

open Sys2Proof.Machine

variable {i : Instr} {s t : State} {r : FaultRecord}

/-! ## The rows of the table -/

/-- The rows, each with the word of its instruction: a data access above 0xFFF, a full or an empty stack, a key
index above 15. -/
theorem faultOf_cases (h : faultOf i s = some r) :
    ((0 < dataBytes i s ∧ s.index.toNat + dataBytes i s - 1 > 0xFFF) ∧
      r = ⟨.memRange, s.pc, some (encodeWord i), some (max s.index.toNat 0x1000)⟩) ∨
    (∃ nnn, i = .call nnn ∧ s.sp.val = stackDepth ∧
      r = ⟨.stackOverflow, s.pc, some (encodeWord i), none⟩) ∨
    (i = .ret ∧ s.sp.val = 0 ∧ r = ⟨.stackUnderflow, s.pc, some (encodeWord i), none⟩) ∨
    (∃ x, (i = .skp x ∨ i = .sknp x) ∧ (s.reg x).toNat > 15 ∧
      r = ⟨.keyRange, s.pc, some (encodeWord i), some (s.reg x).toNat⟩) := by
  cases i
  case drw x y n =>
    obtain ⟨hbad, hr⟩ := Option.ite_none_right_eq_some.1 h
    rw [hexXYN_eq_wordXY _ _ _ n.isLt] at hr
    exact .inl ⟨hbad, (Option.some.inj hr).symm⟩
  case ldBVx x | storeRegs x | loadRegs x =>
    obtain ⟨hbad, hr⟩ := Option.ite_none_right_eq_some.1 h
    rw [hexX_eq_wordX _ _ (by decide)] at hr
    exact .inl ⟨hbad, (Option.some.inj hr).symm⟩
  case call nnn =>
    obtain ⟨hfull, hr⟩ := Option.ite_none_right_eq_some.1 h
    rw [hexA_eq_wordA] at hr
    exact .inr (.inl ⟨nnn, rfl, hfull, (Option.some.inj hr).symm⟩)
  case ret =>
    obtain ⟨hempty, hr⟩ := Option.ite_none_right_eq_some.1 h
    exact .inr (.inr (.inl ⟨rfl, hempty, (Option.some.inj hr).symm⟩))
  case skp x | sknp x =>
    obtain ⟨hkey, hr⟩ := Option.ite_none_right_eq_some.1 h
    rw [hexX_eq_wordX _ _ (by decide)] at hr
    exact .inr (.inr (.inr ⟨x, by simp, hkey, (Option.some.inj hr).symm⟩))
  all_goals exact absurd h (Option.some_ne_none r).symm

/-- An instruction that accesses data checks the range of its bytes before all else (20_memory.md R73, R77). -/
theorem exec_eq_rangeCheck (h : 0 < dataBytes i s) :
    ∃ ok, exec i s = s.rangeCheck i s.index.toNat (dataBytes i s) ok := by
  cases i
  case drw | ldBVx | storeRegs | loadRegs => exact ⟨_, rfl⟩
  all_goals exact absurd h (lt_irrefl 0)

/-- R270, R271: an instruction with a row in the table records that row and does nothing else. -/
theorem exec_of_faultOf_eq_some (h : faultOf i s = some r) : exec i s = .next { s with fault := some r } := by
  obtain ⟨hbad, rfl⟩ | ⟨nnn, rfl, hfull, rfl⟩ | ⟨rfl, hempty, rfl⟩ | ⟨x, rfl | rfl, hkey, rfl⟩ := faultOf_cases h
  · obtain ⟨ok, hok⟩ := exec_eq_rangeCheck hbad.1
    exact raises_of_outOfRange hbad rfl hok
  · rcases execCall_cases nnn s with ⟨-, -, hroom, -⟩ | ⟨hraise, -⟩
    · exact absurd hfull hroom.ne
    · exact hraise
  · rcases execRet_cases s with ⟨-, t, -, hsp, -⟩ | ⟨hraise, -⟩
    · omega
    · exact hraise
  · exact (exec_keySkips_of_gt hkey).1
  · exact (exec_keySkips_of_gt hkey).2

/-- Settles O31: with no row in the table the instruction would have left no fault, and with one it records it and
does nothing else; `step` looks at the record first. -/
theorem faultingInstructionDoesNothingElse : Obligations.FaultingInstructionDoesNothingElse := by
  refine ⟨fun i s t hf h hne => ?_, fun s r hr => by rw [step, hr]⟩
  have hsome : faultOf i s ≠ none := fun hnone => hne ((exec_fault_of_faultOf_eq_none hnone h).trans hf)
  obtain ⟨code, word, addr, rfl⟩ := exec_of_faultOf_ne_none hsome h
  exact ⟨_, rfl, rfl⟩

/-- Settles O32, by whether the instruction has a row in the table. -/
theorem faultsAreExactlyThoseOfTheTable : Obligations.FaultsAreExactlyThoseOfTheTable := by
  intro i s t hf h
  cases hrow : faultOf i s with
  | none => exact (exec_fault_of_faultOf_eq_none hrow h).trans hf
  | some r =>
    cases (exec_of_faultOf_eq_some hrow).symm.trans h
    rfl

/-! ## Truthful records -/

/-- How many bytes an instruction accesses does not depend on the fault record. -/
theorem dataBytes_withFault (i : Instr) (s : State) (f : Option FaultRecord) :
    dataBytes i { s with fault := f } = dataBytes i s := by
  cases i <;> rfl

/-- A row of the table for the instruction fetched at pc is truthful in the state that records it: the word of what a
word decodes to is that word. -/
theorem truthful_of_faultOf {w : Word} (hfetch : s.fetch? = some w) (h : faultOf (decodeWord w) s = some r) :
    r.truthful { s with fault := some r } := by
  obtain ⟨⟨hpos, hbad⟩, rfl⟩ | ⟨nnn, hi, hfull, rfl⟩ | ⟨hi, hempty, rfl⟩ | ⟨x, hi, hkey, rfl⟩ := faultOf_cases h <;>
    rw [encodeWord_decodeWord]
  · refine ⟨rfl, hfetch.symm, w, rfl, ?_⟩
    rw [dataBytes_withFault]
    exact ⟨hpos, hbad, rfl⟩
  · exact ⟨rfl, hfetch.symm, w, nnn, rfl, hi, hfull, rfl⟩
  · have hw : w = 0x00EE#16 := by rw [← encodeWord_decodeWord w, hi]; rfl
    exact ⟨rfl, hfetch.symm, congrArg some hw, hempty, rfl⟩
  · exact ⟨rfl, hfetch.symm, w, x, rfl, hi, hkey, rfl⟩

/-- The record of a fetch fault is truthful: nothing is fetched from a pc above 0xFFE. -/
theorem fetchFault_faultInv (hfetch : s.fetch? = none) : s.fetchFault.FaultInv := by
  rintro r hr
  obtain rfl := Option.some.inj hr
  exact ⟨rfl, hfetch.symm, s.fetch?_eq_none.1 hfetch, rfl⟩

theorem beginTick_fault (s : State) : s.beginTick.fault = s.fault := by
  rcases s.beginTick_cases with ⟨-, h⟩ | ⟨-, -, h⟩ | ⟨-, -, h⟩ <;> rw [h] <;> rfl

theorem faultInv_of_fault_eq_none (h : s.fault = none) : s.FaultInv :=
  fun _ hr => absurd (h.symm.trans hr) (Option.some_ne_none _).symm

/-- An instruction fetched in a core with no fault leaves a truthful record or none. -/
theorem exec_fetched_faultInv {w : Word} (hf : s.fault = none) (hfetch : s.fetch? = some w)
    (h : exec (decodeWord w) s = .next t) : t.FaultInv := by
  intro r hr
  have hrow : faultOf (decodeWord w) s = some r := (faultsAreExactlyThoseOfTheTable _ _ _ hf h).symm.trans hr
  obtain rfl := Host.Outcome.next.inj ((exec_of_faultOf_eq_some hrow).symm.trans h)
  exact truthful_of_faultOf hfetch hrow

/-- Settles O49: the ends of a tick record no fault, and an instruction the row of the word it was fetched as. -/
theorem stepKeepsFaultRecordTruthful : Obligations.StepKeepsFaultRecordTruthful := by
  intro s t h
  obtain ⟨hf, ⟨-, rfl⟩ | ⟨-, rfl⟩ | ⟨n, -, ⟨w, hfetch, hexec⟩ | ⟨hfetch, rfl⟩⟩⟩ := step_cases h
  · exact faultInv_of_fault_eq_none ((beginTick_fault s).trans hf)
  · exact faultInv_of_fault_eq_none hf
  · exact exec_fetched_faultInv (s := { s with sched := .batch n }) hf hfetch hexec
  · exact fetchFault_faultInv (s := { s with sched := .batch n }) hfetch

end Sys2Proof.Claims
end

section
/-! No instruction reads the output ports or the place in the tick, so with others it goes the same way
(60_exceptions.md R280, R297): the port contents are written, never read, and the place is `step`'s alone. -/

namespace Sys2Proof.Machine

variable {s t : State}

/-- The state with other port contents and another place in the tick. -/
def State.withPortsSched (s : State) (p : Ports) (c : Sched) : State := { s with ports := p, sched := c }

/-- A meaning that answers `t` from `s` answers, from `s` with any port contents and place in the tick, `t` with that
place and with port contents that only those before decide. -/
def GoesTheSameWay (f : State → Result) (s t : State) : Prop :=
  ∃ g : Ports → Ports, ∀ p c, f (s.withPortsSched p c) = .next (t.withPortsSched (g p) c)

/-- With its own port contents and place in the tick the meaning answers `t` itself. -/
theorem GoesTheSameWay.exists_fixed {f : State → Result} (hway : GoesTheSameWay f s t) (h : f s = .next t) :
    ∃ g : Ports → Ports, g s.ports = t.ports ∧ s.sched = t.sched ∧
      ∀ p c, f (s.withPortsSched p c) = .next (t.withPortsSched (g p) c) := by
  obtain ⟨g, hg⟩ := hway
  have hself : t.withPortsSched (g s.ports) s.sched = t := Host.Outcome.next.inj ((hg s.ports s.sched).symm.trans h)
  have hsched : (t.withPortsSched (g s.ports) s.sched).sched = t.sched := by rw [hself]
  exact ⟨g, congrArg State.ports hself, hsched, hg⟩

theorem GoesTheSameWay.withPorts {f : State → Result} (hway : GoesTheSameWay f s t) (h : f s = .next t)
    (p : Ports) : ∃ q, f { s with ports := p } = .next { t with ports := q } := by
  obtain ⟨g, -, hsched, hg⟩ := hway.exists_fixed h
  exact ⟨g p, (hg p s.sched).trans (by rw [hsched, State.withPortsSched])⟩

theorem GoesTheSameWay.withSched {f : State → Result} (hway : GoesTheSameWay f s t) (h : f s = .next t)
    (c : Sched) : f { s with sched := c } = .next { t with sched := c } := by
  obtain ⟨g, hports, -, hg⟩ := hway.exists_fixed h
  exact (hg s.ports c).trans (by rw [hports, State.withPortsSched])

/-! ## Operations with more than one outcome -/

theorem State.skipIf_withPortsSched (s : State) (cond : Bool) (p : Ports) (c : Sched) :
    (s.withPortsSched p c).skipIf cond = (s.skipIf cond).withPortsSched p c := by
  cases cond <;> rfl

theorem State.writeResultAndFlag_withPortsSched (s : State) (x : Reg) (result : Byte) (flag : Bool) (p : Ports)
    (c : Sched) :
    (s.withPortsSched p c).writeResultAndFlag x result flag =
      (s.writeResultAndFlag x result flag).withPortsSched p c := by
  unfold State.writeResultAndFlag
  split <;> rfl

theorem State.rangeCheck_withPortsSched {i : Instr} {lo count : Nat} {ok : State}
    (h : s.rangeCheck i lo count ok = .next t) (p : Ports) (c : Sched) :
    (s.withPortsSched p c).rangeCheck i lo count (ok.withPortsSched p c) = .next (t.withPortsSched p c) := by
  unfold State.rangeCheck at h ⊢
  split at h <;> cases h <;> rfl

theorem State.pop?_withPortsSched (s : State) (p : Ports) (c : Sched) :
    (s.withPortsSched p c).pop? = s.pop?.map fun (w, t) => (w, t.withPortsSched p c) := by
  by_cases hsp : 0 < s.sp.val <;> simp [State.pop?, State.withPortsSched, hsp]

theorem State.push?_withPortsSched (s : State) (w : Word) (p : Ports) (c : Sched) :
    (s.withPortsSched p c).push? w = (s.push? w).map fun t => t.withPortsSched p c := by
  by_cases hsp : s.sp.val < stackDepth <;> simp [State.push?, State.withPortsSched, hsp]

/-! ## The meanings with more than one outcome -/

theorem execRet_goesTheSameWay (h : execRet s = .next t) : GoesTheSameWay execRet s t := by
  refine ⟨id, fun p c => ?_⟩
  unfold execRet at h ⊢
  rw [State.pop?_withPortsSched]
  cases hpop : s.pop? <;> rw [hpop] at h <;> cases h <;> rfl

theorem execCall_goesTheSameWay {nnn : Addr12} (h : execCall nnn s = .next t) :
    GoesTheSameWay (execCall nnn) s t := by
  refine ⟨id, fun p c => ?_⟩
  have hpush' : (s.withPortsSched p c).push? ((s.withPortsSched p c).pc + 2#16) = _ :=
    s.push?_withPortsSched (s.pc + 2#16) p c
  unfold execCall at h ⊢
  rw [hpush']
  cases hpush : s.push? (s.pc + 2#16) <;> rw [hpush] at h <;> cases h <;> rfl

theorem execKeySkips_goesTheSameWay {x : Reg} {i : Instr} (hi : i = .skp x ∨ i = .sknp x)
    (h : exec i s = .next t) : GoesTheSameWay (exec i) s t := by
  refine ⟨id, fun p c => ?_⟩
  rcases le_or_gt (s.reg x).toNat 15 with hkey | hkey
  · obtain ⟨hskp, hsknp⟩ := exec_keySkips_of_le hkey
    obtain ⟨hskp', hsknp'⟩ := exec_keySkips_of_le (s := s.withPortsSched p c) hkey
    rw [State.skipIf_withPortsSched] at hskp' hsknp'
    rcases hi with rfl | rfl
    · cases hskp.symm.trans h
      exact hskp'
    · cases hsknp.symm.trans h
      exact hsknp'
  · obtain ⟨hskp, hsknp⟩ := exec_keySkips_of_gt hkey
    obtain ⟨hskp', hsknp'⟩ := exec_keySkips_of_gt (s := s.withPortsSched p c) hkey
    rcases hi with rfl | rfl
    · cases hskp.symm.trans h
      exact hskp'
    · cases hsknp.symm.trans h
      exact hsknp'

theorem execLdVxK_goesTheSameWay {x : Reg} (h : execLdVxK x s = .next t) :
    GoesTheSameWay (execLdVxK x) s t := by
  refine ⟨id, fun p c => ?_⟩
  unfold execLdVxK at h ⊢
  split at h
  case isTrue hlatched =>
    rw [if_pos (show (s.withPortsSched p c).kwPressed = true from hlatched)]
    split at h
    case isTrue hheld =>
      cases h
      exact if_pos hheld
    case isFalse hreleased =>
      cases h
      exact if_neg hreleased
  case isFalse hclear =>
    rw [if_neg (show ¬(s.withPortsSched p c).kwPressed = true from hclear)]
    have hkey : (s.withPortsSched p c).key = s.key := rfl
    rw [hkey]
    split at h <;> cases h <;> rfl

/-! ## Every instruction -/

/-- No instruction reads the ports or the place in the tick. -/
theorem exec_goesTheSameWay {i : Instr} (h : exec i s = .next t) : GoesTheSameWay (exec i) s t := by
  cases i
  case ret => exact execRet_goesTheSameWay h
  case call => exact execCall_goesTheSameWay h
  case skp x | sknp x => exact execKeySkips_goesTheSameWay (x := x) (by simp) h
  case ldVxK => exact execLdVxK_goesTheSameWay h
  case drw | ldBVx | storeRegs | loadRegs => exact ⟨id, State.rangeCheck_withPortsSched h⟩
  case seImm | sneImm | seReg | sneReg =>
    cases h
    exact ⟨id, fun p c => congrArg _ (s.skipIf_withPortsSched _ p c)⟩
  case addReg | sub | shr | subn | shl =>
    cases h
    exact ⟨id, fun p c => congrArg (Host.Outcome.next ∘ State.advance)
      (s.writeResultAndFlag_withPortsSched _ _ _ p c)⟩
  case unknown w =>
    cases h
    exact ⟨fun p => { p with diag := { kind := .unknownOpcode, pc := s.pc, word := w } :: p.diag }, fun _ _ => rfl⟩
  all_goals
    cases h
    exact ⟨id, fun _ _ => rfl⟩

theorem instrStep_of_fetch?_eq_some {w : Word} (hfetch : s.fetch? = some w) :
    s.instrStep = exec (decodeWord w) s := by
  rw [State.instrStep, hfetch]

theorem instrStep_of_fetch?_eq_none (hfetch : s.fetch? = none) : s.instrStep = .next s.fetchFault := by
  rw [State.instrStep, hfetch]

/-- Nor does the instruction step, since the fetch does not. -/
theorem instrStep_goesTheSameWay (h : s.instrStep = .next t) : GoesTheSameWay State.instrStep s t := by
  cases hfetch : s.fetch? with
  | none =>
    cases (instrStep_of_fetch?_eq_none hfetch).symm.trans h
    exact ⟨id, fun p c => instrStep_of_fetch?_eq_none (s := s.withPortsSched p c) hfetch⟩
  | some w =>
    obtain ⟨g, hg⟩ := exec_goesTheSameWay ((instrStep_of_fetch?_eq_some hfetch).symm.trans h)
    exact ⟨g, fun p c => (instrStep_of_fetch?_eq_some (s := s.withPortsSched p c) hfetch).trans (hg p c)⟩

/-! ## The two ends of a tick -/

/-- A step between ticks starts one. -/
theorem step_idle (hf : s.fault = none) (hs : s.sched = .idle) : step s = .next s.beginTick := by
  rw [step, hf, hs]

/-- A step with none left in the batch ends the tick. -/
theorem step_batch_zero (hf : s.fault = none) (hs : s.sched = .batch 0) : step s = .next s.endTick := by
  rw [step, hf, hs]

theorem State.beginTick_of_halted (hrun : s.run = .halted) : s.beginTick = s := by
  rw [State.beginTick, hrun]

theorem State.beginTick_of_stop (hrun : s.run = .running) (hstop : s.nextInput.stop = true) :
    s.beginTick = { s.tookInput with run := .halted } := by
  simp [State.beginTick, hrun, hstop]

theorem State.beginTick_of_not_stop (hrun : s.run = .running) (hstop : s.nextInput.stop = false) :
    s.beginTick = { s.tookInput with key := s.nextInput.keys, sched := .batch s.params.ipt } := by
  simp [State.beginTick, hrun, hstop]

theorem State.beginTick_withPorts (s : State) (p : Ports) :
    State.beginTick { s with ports := p } = { s.beginTick with ports := p } := by
  rcases s.beginTick_cases with ⟨hrun, hbegin⟩ | ⟨hrun, hstop, hbegin⟩ | ⟨hrun, hstop, hbegin⟩ <;>
    rw [hbegin]
  · exact State.beginTick_of_halted (s := { s with ports := p }) hrun
  · exact State.beginTick_of_stop (s := { s with ports := p }) hrun hstop
  · exact State.beginTick_of_not_stop (s := { s with ports := p }) hrun hstop

end Sys2Proof.Machine

namespace Sys2Proof.Claims

open Sys2Proof.Machine

/-- Settles O44: a tick start leaves the ports alone, a tick end overwrites the two it exposes, and an instruction goes
the same way. -/
theorem portContentsAreNeverRead : Obligations.PortContentsAreNeverRead := by
  intro s t p h
  obtain ⟨hf, ⟨hs, rfl⟩ | ⟨hs, rfl⟩ | ⟨n, hs, -⟩⟩ := step_cases h
  · exact ⟨p, (step_idle (s := { s with ports := p }) hf hs).trans (congrArg _ (s.beginTick_withPorts p))⟩
  · exact ⟨_, step_batch_zero (s := { s with ports := p }) hf hs⟩
  · rw [step_batch hf hs] at h
    rw [step_batch (s := { s with ports := p }) hf hs]
    exact (instrStep_goesTheSameWay h).withPorts h p

end Sys2Proof.Claims
end

section
/-! The tick (60_exceptions.md R290 to R296): its start and its end as steps, and the steps of one tick together, which
compute the spec's Tick. -/

namespace Sys2Proof.Claims

open Sys2Proof.Machine

variable {s t : State}

/-! ## The start and the end of a tick -/

/-- Settles O38, one case of a tick start for each clause. -/
theorem tickStartPollsOrStops : Obligations.TickStartPollsOrStops := by
  intro s hf hs
  rw [step_idle hf hs]
  refine ⟨fun hrun => ?_, fun hrun hstop => ?_, fun hrun hstop => ?_⟩
  · rw [State.beginTick_of_halted hrun]
  · rw [State.beginTick_of_stop hrun hstop]
    refine ⟨_, rfl, rfl, rfl, rfl, rfl, rfl, ?_⟩
    apply onlyChanges_of_fields <;> simp
  · rw [State.beginTick_of_not_stop hrun hstop]
    refine ⟨_, rfl, rfl, rfl, rfl, rfl, rfl, rfl, ?_⟩
    apply onlyChanges_of_fields <;> simp

/-- Settles O39: the sound gate compares ST as a byte, after the countdown. -/
theorem tickEndCountsDownAndExposes : Obligations.TickEndCountsDownAndExposes := by
  intro s hf hs
  refine ⟨_, step_batch_zero hf hs, countDown_toNat s.dt, countDown_toNat s.st, rfl, ?_, rfl, rfl, ?_⟩
  · exact bne_iff_ne.trans (BitVec.toNat_inj (x := countDown s.st) (y := 0#8)).not.symm
  · apply onlyChanges_of_fields <;> simp [State.endTick]

/-- Settles O50: a stop is taken between ticks, a tick end leaves the core there, and within a batch no core is
halted. -/
theorem stepKeepsHaltedBetweenTicks : Obligations.StepKeepsHaltedBetweenTicks := by
  intro s t hinv h hhalted
  rcases step_control_cases h with ⟨hs, rfl⟩ | ⟨-, rfl⟩ | ⟨n, hs, hkeep⟩
  · rcases s.beginTick_cases with ⟨-, hbegin⟩ | ⟨-, -, hbegin⟩ | ⟨hrun, -, hbegin⟩ <;>
      rw [hbegin] at hhalted ⊢
    · exact hs
    · exact hs
    · exact absurd (hrun.symm.trans hhalted) nofun
  · rfl
  · have hrun : t.run = s.run := hkeep .run (by decide)
    exact absurd (hs.symm.trans (hinv (hrun.symm.trans hhalted))) nofun

/-! ## The spec's Step and batch -/

theorem instrStep_eq_specStep (s : State) : s.instrStep = .next (specStep s) := by
  obtain ⟨t, ht⟩ := s.instrStep_next
  rw [specStep, ht]

/-- The instruction step is the spec's Step, whatever the place in the tick. -/
theorem instrStep_withSched (s : State) (c : Sched) :
    State.instrStep { s with sched := c } = .next { specStep s with sched := c } :=
  (instrStep_goesTheSameWay (instrStep_eq_specStep s)).withSched (instrStep_eq_specStep s) c

theorem specStep_sched (s : State) : (specStep s).sched = s.sched := by
  obtain ⟨-, -, hsched, -⟩ :=
    (instrStep_goesTheSameWay (instrStep_eq_specStep s)).exists_fixed (instrStep_eq_specStep s)
  exact hsched.symm

theorem specBatch_succ (hf : s.fault = none) (n : Nat) : specBatch (n + 1) s = specBatch n (specStep s) := by
  rw [specBatch, if_pos hf]

/-- With a fault recorded a batch does nothing. -/
theorem specBatch_of_fault {r : FaultRecord} (hf : s.fault = some r) (n : Nat) : specBatch n s = s := by
  induction n with
  | zero => rfl
  | succ n ih => rw [specBatch, if_neg (by simp [hf]), ih]

theorem specBatch_sched (n : Nat) (s : State) : (specBatch n s).sched = s.sched := by
  induction n generalizing s with
  | zero => rfl
  | succ n ih =>
    rw [specBatch, ih]
    split
    · exact specStep_sched s
    · rfl

/-! ## The machine's run of a batch -/

theorem run_succ_of_step_next {M : Host.Core} {s t : M.State} (h : M.step s = .next t) (k : Nat) :
    M.run (k + 1) s = M.run k t := by
  rw [Host.Core.run, h]

theorem run_succ_of_step_fault {M : Host.Core} {s : M.State} {r : M.Fault} (h : M.step s = .fault r) (k : Nat) :
    M.run (k + 1) s = .fault r := by
  rw [Host.Core.run, h]

/-- What the machine answers where the batch leaves `u`: the end of the tick or, with a fault recorded, the error
outcome (R271, R290). -/
def batchAnswer (u : State) : Result :=
  match u.fault with
  | none => .next u.endTick
  | some r => .fault (.stopped r)

theorem batchAnswer_of_fault {u : State} {r : FaultRecord} (hf : u.fault = some r) :
    batchAnswer u = .fault (.stopped r) := by
  rw [batchAnswer, hf]

theorem batchAnswer_of_no_fault {u : State} (hf : u.fault = none) : batchAnswer u = .next u.endTick := by
  rw [batchAnswer, hf]

/-- With a fault recorded both the machine and the spec's batch have stopped. -/
theorem run_batch_of_fault {r : FaultRecord} (hf : s.fault = some r) (n : Nat) :
    core.run (n + 1) { s with sched := .batch n } = batchAnswer (specBatch n s) := by
  have hstep : step { s with sched := .batch n } = .fault (.stopped r) :=
    faultingInstructionDoesNothingElse.2 _ r hf
  rw [specBatch_of_fault hf, batchAnswer_of_fault hf]
  exact run_succ_of_step_fault (M := core) hstep n

/-- The steps of a batch and one more run the spec's batch and answer what it leaves. -/
theorem run_batch (n : Nat) (s : State) :
    core.run (n + 1) { s with sched := .batch n } = batchAnswer (specBatch n s) := by
  induction n generalizing s with
  | zero =>
    obtain hf | ⟨r, hf⟩ := s.fault.eq_none_or_eq_some
    · have hstep : step { s with sched := .batch 0 } = .next s.endTick :=
        step_batch_zero (s := { s with sched := .batch 0 }) hf rfl
      rw [specBatch, batchAnswer_of_no_fault hf]
      exact run_succ_of_step_next (M := core) hstep 0
    · exact run_batch_of_fault hf 0
  | succ n ih =>
    obtain hf | ⟨r, hf⟩ := s.fault.eq_none_or_eq_some
    · have hstep : step { s with sched := .batch (n + 1) } = .next { specStep s with sched := .batch n } :=
        (step_batch (s := { s with sched := .batch (n + 1) }) hf rfl).trans (instrStep_withSched s (.batch n))
      rw [specBatch_succ hf, ← ih]
      exact run_succ_of_step_next (M := core) hstep (n + 1)
    · exact run_batch_of_fault hf (n + 1)

/-! ## The spec's Tick -/

theorem countDown_eq_ofNat (b : Byte) : countDown b = BitVec.ofNat 8 (b.toNat - 1) := by
  apply BitVec.eq_of_toNat_eq
  rw [countDown_toNat, BitVec.toNat_ofNat]
  omega

theorem bne_zero_eq_decide (b : Byte) : (b != 0#8) = decide (b.toNat ≠ 0) := by
  simp [bne, BitVec.toNat_eq, Bool.beq_eq_decide_eq]

/-- From a place between ticks a tick end is the countdown and the exposure as the spec writes them (R291, R293). -/
theorem endTick_of_idle {u : State} (hs : u.sched = .idle) :
    u.endTick =
      { u with
        dt := BitVec.ofNat 8 (u.dt.toNat - 1)
        st := BitVec.ofNat 8 (u.st.toNat - 1)
        ports :=
          { fbOut := u.fb
            soundGate := decide ((BitVec.ofNat 8 (u.st.toNat - 1)).toNat ≠ 0)
            diag := u.ports.diag } } := by
  simp only [State.endTick, State.timerCountdown, State.expose, countDown_eq_ofNat, bne_zero_eq_decide, hs]

/-- The state with the keys polled, in which the batch of a tick begins. -/
def polled (s : State) : State := { s.tookInput with key := s.nextInput.keys }

/-- The spec's Tick ends as the machine's does, or where the batch left a fault. -/
theorem specTick_eq (hs : s.sched = .idle) :
    specTick s =
      if (specBatch s.params.ipt (polled s)).fault = none then (specBatch s.params.ipt (polled s)).endTick
      else specBatch s.params.ipt (polled s) := by
  have hidle : (specBatch s.params.ipt (polled s)).sched = .idle := (specBatch_sched _ _).trans hs
  exact if_congr Iff.rfl (endTick_of_idle hidle).symm rfl

/-- Settles O45: the tick start polls the keys and begins the batch; the batch and the tick end are the spec's. -/
theorem stepsOfOneTickAreTheSpecsTick : Obligations.StepsOfOneTickAreTheSpecsTick := by
  intro s hf hrun hs hstop
  have hstart : step s = .next { polled s with sched := .batch s.params.ipt } := by
    rw [step_idle hf hs, State.beginTick_of_not_stop hrun hstop, polled]
  have hmachine : core.run (s.params.ipt + 2) s = batchAnswer (specBatch s.params.ipt (polled s)) :=
    (run_succ_of_step_next (M := core) hstart _).trans (run_batch _ _)
  rw [specTick_eq hs]
  refine hmachine.trans ?_
  obtain hnone | ⟨r, hfault⟩ := (specBatch s.params.ipt (polled s)).fault.eq_none_or_eq_some
  · have hend : (specBatch s.params.ipt (polled s)).endTick.fault = none := hnone
    rw [batchAnswer_of_no_fault hnone, if_pos hnone, hend]
    rfl
  · rw [batchAnswer_of_fault hfault, if_neg (by simp [hfault]), hfault]
    rfl

end Sys2Proof.Claims
end

section
/-! Reset with a program image (70_reset_and_hazards.md R310 to R312): the bytes of the image are stored over the
state after reset, which lists no memory cell, and every other component keeps its reset value. -/

namespace Sys2Proof.Machine

variable (params : Params) (env : Env) {image : List Byte}

/-- The state after reset with the given parameters and inputs to come, before an image is stored. -/
def State.resetWith (params : Params) (env : Env) : State := { State.reset with params := params, env := env }

theorem State.boot_of_tooLong (h : image.length > maxImage) :
    State.boot params env image = .error .imageTooLong := if_pos h

theorem State.boot_of_fits (h : image.length ≤ maxImage) :
    State.boot params env image = .ok ((State.resetWith params env).storeBytes loadAddr image) :=
  if_neg (Nat.not_lt.2 h)

/-- The one state that Reset can make of an image. -/
theorem State.eq_of_boot_eq_ok {params : Params} {env : Env} {s : State} (h : State.boot params env image = .ok s) :
    s = (State.resetWith params env).storeBytes loadAddr image := by
  rcases Nat.lt_or_ge maxImage image.length with hlong | hfits
  · rw [State.boot_of_tooLong params env hlong] at h
    cases h
  · rw [State.boot_of_fits params env hfits] at h
    exact (Except.ok.inj h).symm

theorem State.resetWith_mem_wf :
    Memory.wf (State.resetWith params env).params.fontRom (State.resetWith params env).mem :=
  ⟨.nil, nofun⟩

/-- With no image the font reads at 0x000 to 0x04F and zero above it (R60). -/
theorem State.readByte_resetWith (a : Nat) :
    (State.resetWith params env).readByte a = if a ≤ 0x4F then params.fontRom.toList.getD a 0 else 0 := by
  have hunlisted : (State.resetWith params env).readByte a = params.fontRom.toList.getD a 0 := rfl
  rw [hunlisted]
  split
  · rfl
  · exact List.getD_eq_default _ _ (by rw [Vector.length_toList]; omega)

end Sys2Proof.Machine

namespace Sys2Proof.Claims

open Sys2Proof.Machine

theorem storeBytes_keeps_inv {s : State} (hinv : s.Inv) (a : Nat) (bytes : List Byte) :
    (s.storeBytes a bytes).Inv := by
  obtain ⟨hwf, hreach⟩ := hinv
  exact ⟨Memory.wf_writeBytes hwf a bytes, hreach⟩

theorem resetWith_inv (params : Params) (env : Env) : (State.resetWith params env).Inv := by
  obtain ⟨-, hreach⟩ := reset_inv
  exact ⟨State.resetWith_mem_wf params env, hreach⟩

/-- Settles O52: storing the image keeps the reach invariant and, as at reset, the latch is clear, no fault is recorded
and the core is running. -/
theorem everyBootedStateMeetsTheInvariants : Obligations.EveryBootedStateMeetsTheInvariants := by
  intro params env image s h
  rw [State.eq_of_boot_eq_ok h]
  exact ⟨storeBytes_keeps_inv (resetWith_inv params env) loadAddr image, nofun, nofun, nofun⟩

/-- Settles O53: a read at the image's addresses gives its byte and any other what it gives with no image. -/
theorem bootLoadsTheImageOrReports : Obligations.BootLoadsTheImageOrReports := by
  intro params env image
  refine ⟨State.boot_of_tooLong params env, fun hfits => ⟨_, State.boot_of_fits params env hfits, fun a _ => ?bytes,
    ?regs, rfl, rfl, rfl, ?stack, rfl, rfl, ?key, FrameBuffer.pixel_clear, rfl, rfl, rfl, rfl, rfl, rfl⟩⟩
  case bytes =>
    have hspace : loadAddr + image.length ≤ memSize := Nat.add_le_add_left hfits loadAddr
    rw [State.readByte_storeBytes _ (State.resetWith_mem_wf params env) loadAddr image hspace a,
      State.readByte_resetWith]
  case regs => exact fun r => Vector.getElem_replicate r.isLt
  case stack => exact fun k => Vector.getElem_replicate k.isLt
  case key => exact fun k => BitVec.getLsbD_zero

/-- Settles O54: storing no bytes changes nothing. -/
theorem resetIsBootOfTheEmptyImage : Obligations.ResetIsBootOfTheEmptyImage :=
  State.boot_of_fits State.reset.params State.reset.env (Nat.zero_le maxImage)

end Sys2Proof.Claims
end

section
/-! Ticks with an empty batch (60_exceptions.md R291, 70_reset_and_hazards.md R323): the tick start and the tick end
follow each other, so a tick only polls the keys, counts the timers down and exposes the ports. -/

namespace Sys2Proof.Machine

theorem State.nextInput_of_cons {s : State} {input : TickInput} {rest : List TickInput}
    (h : s.env.inputs = input :: rest) : s.nextInput = input := by
  rw [State.nextInput, h]

end Sys2Proof.Machine

namespace Sys2Proof.Claims

open Sys2Proof.Machine

variable {s : State}

/-- Two steps run a tick with an empty batch. -/
theorem run_emptyTick (hf : s.fault = none) (hrun : s.run = .running) (hs : s.sched = .idle)
    (hipt : s.params.ipt = 0) (hstop : s.nextInput.stop = false) (n : Nat) :
    core.run (n + 2) s = core.run n (polled s).endTick := by
  have hstart : step s = .next { polled s with sched := .batch 0 } := by
    rw [step_idle hf hs, State.beginTick_of_not_stop hrun hstop, hipt, polled]
  have hend : step { polled s with sched := .batch 0 } = .next (polled s).endTick :=
    step_batch_zero (s := { polled s with sched := .batch 0 }) hf rfl
  exact (run_succ_of_step_next (M := core) hstart (n + 1)).trans (run_succ_of_step_next (M := core) hend n)

/-- Settles O46, by induction on the number of ticks: each takes one input and counts both timers down by one. -/
theorem emptyTicksCountTheTimersDown : Obligations.EmptyTicksCountTheTimersDown := by
  intro k
  induction k with
  | zero => exact fun s _ _ hs _ _ _ => ⟨s, rfl, rfl, rfl, hs, rfl⟩
  | succ k ih =>
    intro s hf hrun hs hipt hlength hstops
    obtain ⟨input, rest, hinputs⟩ := List.exists_cons_of_length_pos (Nat.lt_of_lt_of_le k.succ_pos hlength)
    rw [hinputs, List.length_cons] at hlength
    rw [hinputs, List.take_succ_cons, List.forall_mem_cons] at hstops
    obtain ⟨hstop, hrest⟩ := hstops
    have htail : (polled s).endTick.env.inputs = rest := congrArg List.tail hinputs
    obtain ⟨t, ht, hdt, hst, hidle, hpc⟩ :=
      ih (polled s).endTick hf hrun rfl hipt (by rw [htail]; omega) (by rwa [htail])
    have hdtTick : (polled s).endTick.dt.toNat = s.dt.toNat - 1 := countDown_toNat s.dt
    have hstTick : (polled s).endTick.st.toNat = s.st.toNat - 1 := countDown_toNat s.st
    have htick : core.run (2 * (k + 1)) s = core.run (2 * k) (polled s).endTick :=
      run_emptyTick hf hrun hs hipt (by rwa [State.nextInput_of_cons hinputs]) (2 * k)
    exact ⟨t, htick.trans ht, by omega, by omega, hidle, hpc⟩

end Sys2Proof.Claims
end
